-- ==== Sys2Proof/Word.lean ====
section
/-! DEFINITION. The word types of the core (00_scope.md R5, R7) and its register numbers (10_state.md R20, R21). -/

namespace Sys2Proof

/-- A register, an address, a status word: 32 bits (R5). -/
abbrev Word := BitVec 32

/-- A THUMB opcode (30_encoding.md R90). -/
abbrev Opcode := BitVec 16

/-- The unit of addressing (10_state.md R40). -/
abbrev Byte := BitVec 8

/-- The number of a low register, R0 to R7 (10_state.md R21). -/
abbrev LowReg := Fin 8

/-- The number of a register, R0 to R15 (10_state.md R20). -/
abbrev Reg := Fin 16

end Sys2Proof
end

