-- ==== Sys2Proof/Config.lean ====
section
/-! DEFINITION. What the spec leaves to the environment of the core (00_scope.md R6), as constants: the access type
of a handler's prefetch, the internal cycles of MUL, and what the bus answers where no memory is are free values; the
byte an unlisted address reads as is the model's choice. The rest of R6 is data in State: the map of the bus, the
contents of its memory, and `irq_line`. -/

namespace Sys2Proof

/-- The nineteen instruction formats (30_encoding.md R91). -/
inductive ThumbFormat
  | t1 | t2 | t3 | t4 | t5 | t6 | t7 | t8 | t9 | t10 | t11 | t12 | t13 | t14 | t15 | t16 | t17 | t18 | t19
deriving DecidableEq, Repr

/-- The NONSEQ and SEQ access tags (20_memory.md R61). -/
inductive SeqTag
  | nonseq | seq
deriving DecidableEq, Repr, Inhabited

/-- The widths of an access: 1, 2 or 4 bytes (20_memory.md R60). -/
inductive Machine.Width
  | byte | half | word
deriving DecidableEq, Repr

/-- One access as the bus sees it (20_memory.md R60): without the access tag, which may steer its timing only. -/
inductive Machine.BusAccess
  | read (addr : Word) (width : Machine.Width)
  | write (addr : Word) (width : Machine.Width) (value : Word)
deriving DecidableEq, Repr

/-- `prefetch_acc(f)`, the open parameter of 40_pipeline_shifter_flags.md R124: a FREE VALUE (log 10).
The spec's default is SEQ for the formats without a data access, NONSEQ for the others. -/
opaque Config.prefetchAcc : ThumbFormat → SeqTag

/-- The `m` of MUL's `Internal(m)`, of the old Rd and of Rs (70_reset_and_hazards.md R372): a FREE VALUE (log 11). -/
opaque Config.mulCycles : Word → Word → Nat

/-- The `Bus.read` of the parameter `Bus` (20_memory.md R60, R62) at an address that is no memory: of the accesses the
bus has seen, of the address and of the width. A FREE VALUE (log 5): a device register, an unmapped hole, a read with
side effects are all among its values; no access ends without one. -/
opaque Config.busAnswer : List Machine.BusAccess → Word → Machine.Width → Word

/-- What a byte of memory that nothing has written reads as. DESIGN CHOICE, unsafe (log 5). -/
def Config.unlistedByte : Byte := 0

end Sys2Proof
end

