-- ==== Sys2Proof/Syntax.lean ====
section
/-! DEFINITION. The THUMB instruction set (30_encoding.md): one constructor per row of the opcode table, the
nineteen RESERVED rows sharing one that carries its opcode (log 13). Operands are register numbers and immediate
fields; the argument order is the assembler's (R115). -/

namespace Sys2Proof

inductive Instr
  /-- LSL Rd, Rs, #imm5 (R151). -/
  | lslImm (rd rs : LowReg) (imm5 : BitVec 5)
  /-- LSR Rd, Rs, #imm5 (R152). -/
  | lsrImm (rd rs : LowReg) (imm5 : BitVec 5)
  /-- ASR Rd, Rs, #imm5 (R153). -/
  | asrImm (rd rs : LowReg) (imm5 : BitVec 5)
  /-- ADD Rd, Rs, Rn (R154). -/
  | addReg (rd rs rn : LowReg)
  /-- SUB Rd, Rs, Rn (R155). -/
  | subReg (rd rs rn : LowReg)
  /-- ADD Rd, Rs, #imm3 (R156). -/
  | addImm3 (rd rs : LowReg) (imm3 : BitVec 3)
  /-- SUB Rd, Rs, #imm3 (R157). -/
  | subImm3 (rd rs : LowReg) (imm3 : BitVec 3)
  /-- MOV Rd, #imm8 (R158). -/
  | movImm8 (rd : LowReg) (imm8 : BitVec 8)
  /-- CMP Rd, #imm8 (R159). -/
  | cmpImm8 (rd : LowReg) (imm8 : BitVec 8)
  /-- ADD Rd, #imm8 (R160). -/
  | addImm8 (rd : LowReg) (imm8 : BitVec 8)
  /-- SUB Rd, #imm8 (R161). -/
  | subImm8 (rd : LowReg) (imm8 : BitVec 8)
  /-- AND Rd, Rs (R171). -/
  | andAlu (rd rs : LowReg)
  /-- EOR Rd, Rs (R172). -/
  | eorAlu (rd rs : LowReg)
  /-- LSL Rd, Rs (R173). -/
  | lslAlu (rd rs : LowReg)
  /-- LSR Rd, Rs (R174). -/
  | lsrAlu (rd rs : LowReg)
  /-- ASR Rd, Rs (R175). -/
  | asrAlu (rd rs : LowReg)
  /-- ADC Rd, Rs (R176). -/
  | adcAlu (rd rs : LowReg)
  /-- SBC Rd, Rs (R177). -/
  | sbcAlu (rd rs : LowReg)
  /-- ROR Rd, Rs (R178). -/
  | rorAlu (rd rs : LowReg)
  /-- TST Rd, Rs (R179). -/
  | tstAlu (rd rs : LowReg)
  /-- NEG Rd, Rs (R180). -/
  | negAlu (rd rs : LowReg)
  /-- CMP Rd, Rs (R181). -/
  | cmpAlu (rd rs : LowReg)
  /-- CMN Rd, Rs (R182). -/
  | cmnAlu (rd rs : LowReg)
  /-- ORR Rd, Rs (R183). -/
  | orrAlu (rd rs : LowReg)
  /-- MUL Rd, Rs (R184). -/
  | mulAlu (rd rs : LowReg)
  /-- BIC Rd, Rs (R185). -/
  | bicAlu (rd rs : LowReg)
  /-- MVN Rd, Rs (R186). -/
  | mvnAlu (rd rs : LowReg)
  /-- ADD Rd, Rs (any of R0..R15) (R201). -/
  | addHi (rd rs : Reg)
  /-- CMP Rd, Rs (any of R0..R15) (R202). -/
  | cmpHi (rd rs : Reg)
  /-- MOV Rd, Rs (any of R0..R15) (R203). -/
  | movHi (rd rs : Reg)
  /-- BX Rs; `h1` (op[7]) and `rdBits` (op[2:0]) are ignored (R117) (R204). -/
  | bx (rs : Reg) (h1 : BitVec 1) (rdBits : BitVec 3)
  /-- LDR Rd, [PC, #imm8*4] (R211). -/
  | ldrPc (rd : LowReg) (imm8 : BitVec 8)
  /-- STR Rd, [Rb, Ro] (R212). -/
  | strRo (rd rb ro : LowReg)
  /-- STRB Rd, [Rb, Ro] (R213). -/
  | strbRo (rd rb ro : LowReg)
  /-- LDR Rd, [Rb, Ro] (R214). -/
  | ldrRo (rd rb ro : LowReg)
  /-- LDRB Rd, [Rb, Ro] (R215). -/
  | ldrbRo (rd rb ro : LowReg)
  /-- STRH Rd, [Rb, Ro] (R216). -/
  | strhRo (rd rb ro : LowReg)
  /-- LDSB Rd, [Rb, Ro] (R217). -/
  | ldsbRo (rd rb ro : LowReg)
  /-- LDRH Rd, [Rb, Ro] (R218). -/
  | ldrhRo (rd rb ro : LowReg)
  /-- LDSH Rd, [Rb, Ro] (R219). -/
  | ldshRo (rd rb ro : LowReg)
  /-- STR Rd, [Rb, #imm5*4] (R220). -/
  | strImm (rd rb : LowReg) (imm5 : BitVec 5)
  /-- LDR Rd, [Rb, #imm5*4] (R221). -/
  | ldrImm (rd rb : LowReg) (imm5 : BitVec 5)
  /-- STRB Rd, [Rb, #imm5] (R222). -/
  | strbImm (rd rb : LowReg) (imm5 : BitVec 5)
  /-- LDRB Rd, [Rb, #imm5] (R223). -/
  | ldrbImm (rd rb : LowReg) (imm5 : BitVec 5)
  /-- STRH Rd, [Rb, #imm5*2] (R224). -/
  | strhImm (rd rb : LowReg) (imm5 : BitVec 5)
  /-- LDRH Rd, [Rb, #imm5*2] (R225). -/
  | ldrhImm (rd rb : LowReg) (imm5 : BitVec 5)
  /-- STR Rd, [SP, #imm8*4] (R226). -/
  | strSp (rd : LowReg) (imm8 : BitVec 8)
  /-- LDR Rd, [SP, #imm8*4] (R227). -/
  | ldrSp (rd : LowReg) (imm8 : BitVec 8)
  /-- ADD Rd, PC, #imm8*4 (R240). -/
  | addPc (rd : LowReg) (imm8 : BitVec 8)
  /-- ADD Rd, SP, #imm8*4 (R241). -/
  | addSp (rd : LowReg) (imm8 : BitVec 8)
  /-- ADD SP, #imm7*4 (R242). -/
  | incSp (imm7 : BitVec 7)
  /-- ADD SP, #-imm7*4 (R243). -/
  | decSp (imm7 : BitVec 7)
  /-- PUSH {rlist[, LR]} (R251). -/
  | push (lr : Bool) (rlist : BitVec 8)
  /-- POP {rlist[, PC]} (R253). -/
  | pop (pc : Bool) (rlist : BitVec 8)
  /-- STMIA Rb!, {rlist} (R254). -/
  | stmia (rb : LowReg) (rlist : BitVec 8)
  /-- LDMIA Rb!, {rlist} (R255). -/
  | ldmia (rb : LowReg) (rlist : BitVec 8)
  /-- BEQ label (R260). -/
  | beq (imm8 : BitVec 8)
  /-- BNE label (R260). -/
  | bne (imm8 : BitVec 8)
  /-- BCS label (R260). -/
  | bcs (imm8 : BitVec 8)
  /-- BCC label (R260). -/
  | bcc (imm8 : BitVec 8)
  /-- BMI label (R260). -/
  | bmi (imm8 : BitVec 8)
  /-- BPL label (R260). -/
  | bpl (imm8 : BitVec 8)
  /-- BVS label (R260). -/
  | bvs (imm8 : BitVec 8)
  /-- BVC label (R260). -/
  | bvc (imm8 : BitVec 8)
  /-- BHI label (R260). -/
  | bhi (imm8 : BitVec 8)
  /-- BLS label (R260). -/
  | bls (imm8 : BitVec 8)
  /-- BGE label (R260). -/
  | bge (imm8 : BitVec 8)
  /-- BLT label (R260). -/
  | blt (imm8 : BitVec 8)
  /-- BGT label (R260). -/
  | bgt (imm8 : BitVec 8)
  /-- BLE label (R260). -/
  | ble (imm8 : BitVec 8)
  /-- BAL label (cond 14) (R261). -/
  | bal (imm8 : BitVec 8)
  /-- SWI #imm8; the comment is ignored by the hardware (R117) (R265). -/
  | swi (comment : BitVec 8)
  /-- B label (R268). -/
  | b (imm11 : BitVec 11)
  /-- BL, first half (R270). -/
  | blHi (imm11 : BitVec 11)
  /-- BL, second half (R271). -/
  | blLo (imm11 : BitVec 11)
  /-- an opcode no format claims (R275). -/
  | reserved (op : Opcode)
deriving DecidableEq, Repr

end Sys2Proof
end

