-- ==== Sys2Proof/WellFormed.lean ====
section
/-! DEFINITION. Well-formed instructions: the terms of Instr that are the meaning of some opcode. The fields' types
already bound registers and immediates; the one check left is that a `reserved` term carries an opcode of R275. -/

namespace Sys2Proof

/-- The nineteen values of op[15:8] that no format claims (30_encoding.md R113(b), 47 R275). -/
def isReservedByte (top : BitVec 8) : Bool :=
  [0xB1, 0xB2, 0xB3, 0xB6, 0xB7, 0xB8, 0xB9, 0xBA, 0xBB, 0xBE, 0xBF,
   0xE8, 0xE9, 0xEA, 0xEB, 0xEC, 0xED, 0xEE, 0xEF].contains top

/-- Well-formedness, one case per constructor. -/
def Instr.wellFormed : Instr → Bool
  | .lslImm _ _ _ => true
  | .lsrImm _ _ _ => true
  | .asrImm _ _ _ => true
  | .addReg _ _ _ => true
  | .subReg _ _ _ => true
  | .addImm3 _ _ _ => true
  | .subImm3 _ _ _ => true
  | .movImm8 _ _ => true
  | .cmpImm8 _ _ => true
  | .addImm8 _ _ => true
  | .subImm8 _ _ => true
  | .andAlu _ _ => true
  | .eorAlu _ _ => true
  | .lslAlu _ _ => true
  | .lsrAlu _ _ => true
  | .asrAlu _ _ => true
  | .adcAlu _ _ => true
  | .sbcAlu _ _ => true
  | .rorAlu _ _ => true
  | .tstAlu _ _ => true
  | .negAlu _ _ => true
  | .cmpAlu _ _ => true
  | .cmnAlu _ _ => true
  | .orrAlu _ _ => true
  | .mulAlu _ _ => true
  | .bicAlu _ _ => true
  | .mvnAlu _ _ => true
  | .addHi _ _ => true
  | .cmpHi _ _ => true
  | .movHi _ _ => true
  | .bx _ _ _ => true
  | .ldrPc _ _ => true
  | .strRo _ _ _ => true
  | .strbRo _ _ _ => true
  | .ldrRo _ _ _ => true
  | .ldrbRo _ _ _ => true
  | .strhRo _ _ _ => true
  | .ldsbRo _ _ _ => true
  | .ldrhRo _ _ _ => true
  | .ldshRo _ _ _ => true
  | .strImm _ _ _ => true
  | .ldrImm _ _ _ => true
  | .strbImm _ _ _ => true
  | .ldrbImm _ _ _ => true
  | .strhImm _ _ _ => true
  | .ldrhImm _ _ _ => true
  | .strSp _ _ => true
  | .ldrSp _ _ => true
  | .addPc _ _ => true
  | .addSp _ _ => true
  | .incSp _ => true
  | .decSp _ => true
  | .push _ _ => true
  | .pop _ _ => true
  | .stmia _ _ => true
  | .ldmia _ _ => true
  | .beq _ => true
  | .bne _ => true
  | .bcs _ => true
  | .bcc _ => true
  | .bmi _ => true
  | .bpl _ => true
  | .bvs _ => true
  | .bvc _ => true
  | .bhi _ => true
  | .bls _ => true
  | .bge _ => true
  | .blt _ => true
  | .bgt _ => true
  | .ble _ => true
  | .bal _ => true
  | .swi _ => true
  | .b _ => true
  | .blHi _ => true
  | .blLo _ => true
  | .reserved op => isReservedByte (op.extractLsb' 8 8)

/-- An instruction whose effect the spec gives: not a reserved opcode (R275) and not an empty register list
(R252, R256). On exactly the others the step faults (R367). -/
def Instr.specified : Instr → Bool
  | .lslImm _ _ _ => true
  | .lsrImm _ _ _ => true
  | .asrImm _ _ _ => true
  | .addReg _ _ _ => true
  | .subReg _ _ _ => true
  | .addImm3 _ _ _ => true
  | .subImm3 _ _ _ => true
  | .movImm8 _ _ => true
  | .cmpImm8 _ _ => true
  | .addImm8 _ _ => true
  | .subImm8 _ _ => true
  | .andAlu _ _ => true
  | .eorAlu _ _ => true
  | .lslAlu _ _ => true
  | .lsrAlu _ _ => true
  | .asrAlu _ _ => true
  | .adcAlu _ _ => true
  | .sbcAlu _ _ => true
  | .rorAlu _ _ => true
  | .tstAlu _ _ => true
  | .negAlu _ _ => true
  | .cmpAlu _ _ => true
  | .cmnAlu _ _ => true
  | .orrAlu _ _ => true
  | .mulAlu _ _ => true
  | .bicAlu _ _ => true
  | .mvnAlu _ _ => true
  | .addHi _ _ => true
  | .cmpHi _ _ => true
  | .movHi _ _ => true
  | .bx _ _ _ => true
  | .ldrPc _ _ => true
  | .strRo _ _ _ => true
  | .strbRo _ _ _ => true
  | .ldrRo _ _ _ => true
  | .ldrbRo _ _ _ => true
  | .strhRo _ _ _ => true
  | .ldsbRo _ _ _ => true
  | .ldrhRo _ _ _ => true
  | .ldshRo _ _ _ => true
  | .strImm _ _ _ => true
  | .ldrImm _ _ _ => true
  | .strbImm _ _ _ => true
  | .ldrbImm _ _ _ => true
  | .strhImm _ _ _ => true
  | .ldrhImm _ _ _ => true
  | .strSp _ _ => true
  | .ldrSp _ _ => true
  | .addPc _ _ => true
  | .addSp _ _ => true
  | .incSp _ => true
  | .decSp _ => true
  | .push r rlist => r || rlist != 0
  | .pop r rlist => r || rlist != 0
  | .stmia _ rlist => rlist != 0
  | .ldmia _ rlist => rlist != 0
  | .beq _ => true
  | .bne _ => true
  | .bcs _ => true
  | .bcc _ => true
  | .bmi _ => true
  | .bpl _ => true
  | .bvs _ => true
  | .bvc _ => true
  | .bhi _ => true
  | .bls _ => true
  | .bge _ => true
  | .blt _ => true
  | .bgt _ => true
  | .ble _ => true
  | .bal _ => true
  | .swi _ => true
  | .b _ => true
  | .blHi _ => true
  | .blLo _ => true
  | .reserved _ => false

end Sys2Proof
end

