-- ==== Sys2Proof/Decode.lean ====
section
/-! DEFINITION. Decoding and encoding of the 16-bit opcodes (30_encoding.md R91 to R117), and the opcode table
itself. A field is cut out of the opcode here and nowhere else; the encoder is written from the same layouts, each
as its bit pattern from bit 15 down. -/

namespace Sys2Proof

/-! ## Fields -/

/-- The field of `len` bits of an opcode that begins at bit `lo`. -/
def opField (op : Opcode) (lo len : Nat) : BitVec len := op.extractLsb' lo len

/-- The low register in the three bits from `lo` up. -/
def lowField (op : Opcode) (lo : Nat) : LowReg := (opField op lo 3).toFin

/-- A THUMB.5 register number: one high bit and three low bits (R97). -/
def hiField (op : Opcode) (highAt lowAt : Nat) : Reg := (opField op highAt 1 ++ opField op lowAt 3).toFin

/-- The three bits of a low register. -/
def lowBits (r : LowReg) : BitVec 3 := BitVec.ofFin r

/-- Bit 3 of a register number (H1, H2 of R97). -/
def highBit (r : Reg) : BitVec 1 := (BitVec.ofFin r : BitVec 4).extractLsb' 3 1

/-- Bits 2:0 of a register number (R97). -/
def lowThree (r : Reg) : BitVec 3 := (BitVec.ofFin r : BitVec 4).extractLsb' 0 3

/-! ## The decoder, format by format -/

/-- THUMB.2 (R94), selected by op[10:9]. -/
def decodeAddSub (op : Opcode) : Instr :=
  let rd := lowField op 0
  let rs := lowField op 3
  match (opField op 9 2).toFin with
  | 0 => .addReg rd rs (lowField op 6)
  | 1 => .subReg rd rs (lowField op 6)
  | 2 => .addImm3 rd rs (opField op 6 3)
  | 3 => .subImm3 rd rs (opField op 6 3)

/-- THUMB.4 (R96), selected by op[9:8] and op[7:6]. -/
def decodeAlu (op : Opcode) : Instr :=
  let rd := lowField op 0
  let rs := lowField op 3
  match (opField op 8 2).toFin, (opField op 6 2).toFin with
  | 0, 0 => .andAlu rd rs
  | 0, 1 => .eorAlu rd rs
  | 0, 2 => .lslAlu rd rs
  | 0, 3 => .lsrAlu rd rs
  | 1, 0 => .asrAlu rd rs
  | 1, 1 => .adcAlu rd rs
  | 1, 2 => .sbcAlu rd rs
  | 1, 3 => .rorAlu rd rs
  | 2, 0 => .tstAlu rd rs
  | 2, 1 => .negAlu rd rs
  | 2, 2 => .cmpAlu rd rs
  | 2, 3 => .cmnAlu rd rs
  | 3, 0 => .orrAlu rd rs
  | 3, 1 => .mulAlu rd rs
  | 3, 2 => .bicAlu rd rs
  | 3, 3 => .mvnAlu rd rs

/-- THUMB.5 (R97), selected by op[9:8]. -/
def decodeHi (op : Opcode) : Instr :=
  let rd := hiField op 7 0
  let rs := hiField op 6 3
  match (opField op 8 2).toFin with
  | 0 => .addHi rd rs
  | 1 => .cmpHi rd rs
  | 2 => .movHi rd rs
  | 3 => .bx rs (opField op 7 1) (opField op 0 3)

/-- THUMB.7 and THUMB.8 (R99, R100), selected by op[11:9]. -/
def decodeRegOffset (op : Opcode) : Instr :=
  let rd := lowField op 0
  let rb := lowField op 3
  let ro := lowField op 6
  match (opField op 9 3).toFin with
  | 0 => .strRo rd rb ro
  | 1 => .strhRo rd rb ro
  | 2 => .strbRo rd rb ro
  | 3 => .ldsbRo rd rb ro
  | 4 => .ldrRo rd rb ro
  | 5 => .ldrhRo rd rb ro
  | 6 => .ldrbRo rd rb ro
  | 7 => .ldshRo rd rb ro

/-- op[15:11] = 10110: THUMB.13 (R105), PUSH (R106) and reserved bytes (R113(b)), selected by op[10:8]. -/
def decodeMiscLow (op : Opcode) : Instr :=
  match (opField op 8 3).toFin with
  | 0 =>
    match (opField op 7 1).toFin with
    | 0 => .incSp (opField op 0 7)
    | 1 => .decSp (opField op 0 7)
  | 4 => .push false (opField op 0 8)
  | 5 => .push true (opField op 0 8)
  | 1 | 2 | 3 | 6 | 7 => .reserved op

/-- op[15:11] = 10111: POP (R106) and reserved bytes (R113(b)), selected by op[10:8]. -/
def decodeMiscHigh (op : Opcode) : Instr :=
  match (opField op 8 3).toFin with
  | 4 => .pop false (opField op 0 8)
  | 5 => .pop true (opField op 0 8)
  | 0 | 1 | 2 | 3 | 6 | 7 => .reserved op

/-- THUMB.16 and THUMB.17 (R108, R109), selected by op[11:10] and op[9:8]. -/
def decodeBranchSwi (op : Opcode) : Instr :=
  let imm8 := opField op 0 8
  match (opField op 10 2).toFin, (opField op 8 2).toFin with
  | 0, 0 => .beq imm8
  | 0, 1 => .bne imm8
  | 0, 2 => .bcs imm8
  | 0, 3 => .bcc imm8
  | 1, 0 => .bmi imm8
  | 1, 1 => .bpl imm8
  | 1, 2 => .bvs imm8
  | 1, 3 => .bvc imm8
  | 2, 0 => .bhi imm8
  | 2, 1 => .bls imm8
  | 2, 2 => .bge imm8
  | 2, 3 => .blt imm8
  | 3, 0 => .bgt imm8
  | 3, 1 => .ble imm8
  | 3, 2 => .bal imm8
  | 3, 3 => .swi imm8

/-- op[15:13] = 000: THUMB.1 (R93) and THUMB.2. -/
def decodeShift (op : Opcode) : Instr :=
  let rd := lowField op 0
  let rs := lowField op 3
  let imm5 := opField op 6 5
  match (opField op 11 2).toFin with
  | 0 => .lslImm rd rs imm5
  | 1 => .lsrImm rd rs imm5
  | 2 => .asrImm rd rs imm5
  | 3 => decodeAddSub op

/-- op[15:13] = 001: THUMB.3 (R95). -/
def decodeImm8 (op : Opcode) : Instr :=
  let rd := lowField op 8
  let imm8 := opField op 0 8
  match (opField op 11 2).toFin with
  | 0 => .movImm8 rd imm8
  | 1 => .cmpImm8 rd imm8
  | 2 => .addImm8 rd imm8
  | 3 => .subImm8 rd imm8

/-- op[15:13] = 010: THUMB.4 to THUMB.8 (R96 to R100). -/
def decodeAluHiLoad (op : Opcode) : Instr :=
  match (opField op 11 2).toFin with
  | 0 =>
    match (opField op 10 1).toFin with
    | 0 => decodeAlu op
    | 1 => decodeHi op
  | 1 => .ldrPc (lowField op 8) (opField op 0 8)
  | 2 | 3 => decodeRegOffset op

/-- op[15:13] = 011: THUMB.9 (R101). -/
def decodeImmOffset (op : Opcode) : Instr :=
  let rd := lowField op 0
  let rb := lowField op 3
  let imm5 := opField op 6 5
  match (opField op 11 2).toFin with
  | 0 => .strImm rd rb imm5
  | 1 => .ldrImm rd rb imm5
  | 2 => .strbImm rd rb imm5
  | 3 => .ldrbImm rd rb imm5

/-- op[15:13] = 100: THUMB.10 and THUMB.11 (R102, R103). -/
def decodeHalfSp (op : Opcode) : Instr :=
  match (opField op 11 2).toFin with
  | 0 => .strhImm (lowField op 0) (lowField op 3) (opField op 6 5)
  | 1 => .ldrhImm (lowField op 0) (lowField op 3) (opField op 6 5)
  | 2 => .strSp (lowField op 8) (opField op 0 8)
  | 3 => .ldrSp (lowField op 8) (opField op 0 8)

/-- op[15:13] = 101: THUMB.12 (R104), then THUMB.13 and THUMB.14. -/
def decodeAddressStack (op : Opcode) : Instr :=
  match (opField op 11 2).toFin with
  | 0 => .addPc (lowField op 8) (opField op 0 8)
  | 1 => .addSp (lowField op 8) (opField op 0 8)
  | 2 => decodeMiscLow op
  | 3 => decodeMiscHigh op

/-- op[15:13] = 110: THUMB.15 (R107), then THUMB.16 and THUMB.17. -/
def decodeMultipleBranch (op : Opcode) : Instr :=
  match (opField op 11 2).toFin with
  | 0 => .stmia (lowField op 8) (opField op 0 8)
  | 1 => .ldmia (lowField op 8) (opField op 0 8)
  | 2 | 3 => decodeBranchSwi op

/-- op[15:13] = 111: THUMB.18 and THUMB.19 (R110, R111), and the reserved bytes 0xE8 to 0xEF (R113(b)). -/
def decodeLongBranch (op : Opcode) : Instr :=
  match (opField op 11 2).toFin with
  | 0 => .b (opField op 0 11)
  | 1 => .reserved op
  | 2 => .blHi (opField op 0 11)
  | 3 => .blLo (opField op 0 11)

/-- Decode is total on the 65536 opcodes (R92), selected by op[15:13]. -/
def decodeOp (op : Opcode) : Instr :=
  match (opField op 13 3).toFin with
  | 0 => decodeShift op
  | 1 => decodeImm8 op
  | 2 => decodeAluHiLoad op
  | 3 => decodeImmOffset op
  | 4 => decodeHalfSp op
  | 5 => decodeAddressStack op
  | 6 => decodeMultipleBranch op
  | 7 => decodeLongBranch op

/-- Why a sequence of bytes is no instruction. Every pair of bytes is one (R90, R92), so the only reason is that
there are fewer than two. -/
inductive DecodeError
  | truncated
deriving DecidableEq, Repr

/-- The opcode whose bytes stand at A and A + 1: little-endian (20_memory.md R65). -/
def opcodeOfBytes (atA atA1 : Byte) : Opcode := atA1 ++ atA

/-- Decoding of bytes in memory order: the instruction and the bytes after it. -/
def decode : List Byte → Except DecodeError (Instr × List Byte)
  | b0 :: b1 :: rest => .ok (decodeOp (opcodeOfBytes b0 b1), rest)
  | _ => .error .truncated

/-- The instruction the decoder reads from an opcode-table word: `nbits` bits of `w`, the bits above them zero,
laid out in memory order. -/
def decodeTableWord (nbits w : Nat) : Option Instr :=
  if nbits ≤ 16 then
    let op := w % 2 ^ nbits
    match decode [BitVec.ofNat 8 op, BitVec.ofNat 8 (op / 256)] with
    | .ok (i, _) => some i
    | .error _ => none
  else none

/-! ## The encoder -/

/-- The opcode of an instruction, as its bit pattern from bit 15 down (R93 to R111). -/
def encodeOp : Instr → Opcode
  | .lslImm rd rs imm5 => 0b00000#5 ++ imm5 ++ lowBits rs ++ lowBits rd
  | .lsrImm rd rs imm5 => 0b00001#5 ++ imm5 ++ lowBits rs ++ lowBits rd
  | .asrImm rd rs imm5 => 0b00010#5 ++ imm5 ++ lowBits rs ++ lowBits rd
  | .addReg rd rs rn => 0b0001100#7 ++ lowBits rn ++ lowBits rs ++ lowBits rd
  | .subReg rd rs rn => 0b0001101#7 ++ lowBits rn ++ lowBits rs ++ lowBits rd
  | .addImm3 rd rs imm3 => 0b0001110#7 ++ imm3 ++ lowBits rs ++ lowBits rd
  | .subImm3 rd rs imm3 => 0b0001111#7 ++ imm3 ++ lowBits rs ++ lowBits rd
  | .movImm8 rd imm8 => 0b00100#5 ++ lowBits rd ++ imm8
  | .cmpImm8 rd imm8 => 0b00101#5 ++ lowBits rd ++ imm8
  | .addImm8 rd imm8 => 0b00110#5 ++ lowBits rd ++ imm8
  | .subImm8 rd imm8 => 0b00111#5 ++ lowBits rd ++ imm8
  | .andAlu rd rs => 0b0100000000#10 ++ lowBits rs ++ lowBits rd
  | .eorAlu rd rs => 0b0100000001#10 ++ lowBits rs ++ lowBits rd
  | .lslAlu rd rs => 0b0100000010#10 ++ lowBits rs ++ lowBits rd
  | .lsrAlu rd rs => 0b0100000011#10 ++ lowBits rs ++ lowBits rd
  | .asrAlu rd rs => 0b0100000100#10 ++ lowBits rs ++ lowBits rd
  | .adcAlu rd rs => 0b0100000101#10 ++ lowBits rs ++ lowBits rd
  | .sbcAlu rd rs => 0b0100000110#10 ++ lowBits rs ++ lowBits rd
  | .rorAlu rd rs => 0b0100000111#10 ++ lowBits rs ++ lowBits rd
  | .tstAlu rd rs => 0b0100001000#10 ++ lowBits rs ++ lowBits rd
  | .negAlu rd rs => 0b0100001001#10 ++ lowBits rs ++ lowBits rd
  | .cmpAlu rd rs => 0b0100001010#10 ++ lowBits rs ++ lowBits rd
  | .cmnAlu rd rs => 0b0100001011#10 ++ lowBits rs ++ lowBits rd
  | .orrAlu rd rs => 0b0100001100#10 ++ lowBits rs ++ lowBits rd
  | .mulAlu rd rs => 0b0100001101#10 ++ lowBits rs ++ lowBits rd
  | .bicAlu rd rs => 0b0100001110#10 ++ lowBits rs ++ lowBits rd
  | .mvnAlu rd rs => 0b0100001111#10 ++ lowBits rs ++ lowBits rd
  | .addHi rd rs => 0b01000100#8 ++ highBit rd ++ highBit rs ++ lowThree rs ++ lowThree rd
  | .cmpHi rd rs => 0b01000101#8 ++ highBit rd ++ highBit rs ++ lowThree rs ++ lowThree rd
  | .movHi rd rs => 0b01000110#8 ++ highBit rd ++ highBit rs ++ lowThree rs ++ lowThree rd
  | .bx rs h1 rdBits => 0b01000111#8 ++ h1 ++ highBit rs ++ lowThree rs ++ rdBits
  | .ldrPc rd imm8 => 0b01001#5 ++ lowBits rd ++ imm8
  | .strRo rd rb ro => 0b0101000#7 ++ lowBits ro ++ lowBits rb ++ lowBits rd
  | .strbRo rd rb ro => 0b0101010#7 ++ lowBits ro ++ lowBits rb ++ lowBits rd
  | .ldrRo rd rb ro => 0b0101100#7 ++ lowBits ro ++ lowBits rb ++ lowBits rd
  | .ldrbRo rd rb ro => 0b0101110#7 ++ lowBits ro ++ lowBits rb ++ lowBits rd
  | .strhRo rd rb ro => 0b0101001#7 ++ lowBits ro ++ lowBits rb ++ lowBits rd
  | .ldsbRo rd rb ro => 0b0101011#7 ++ lowBits ro ++ lowBits rb ++ lowBits rd
  | .ldrhRo rd rb ro => 0b0101101#7 ++ lowBits ro ++ lowBits rb ++ lowBits rd
  | .ldshRo rd rb ro => 0b0101111#7 ++ lowBits ro ++ lowBits rb ++ lowBits rd
  | .strImm rd rb imm5 => 0b01100#5 ++ imm5 ++ lowBits rb ++ lowBits rd
  | .ldrImm rd rb imm5 => 0b01101#5 ++ imm5 ++ lowBits rb ++ lowBits rd
  | .strbImm rd rb imm5 => 0b01110#5 ++ imm5 ++ lowBits rb ++ lowBits rd
  | .ldrbImm rd rb imm5 => 0b01111#5 ++ imm5 ++ lowBits rb ++ lowBits rd
  | .strhImm rd rb imm5 => 0b10000#5 ++ imm5 ++ lowBits rb ++ lowBits rd
  | .ldrhImm rd rb imm5 => 0b10001#5 ++ imm5 ++ lowBits rb ++ lowBits rd
  | .strSp rd imm8 => 0b10010#5 ++ lowBits rd ++ imm8
  | .ldrSp rd imm8 => 0b10011#5 ++ lowBits rd ++ imm8
  | .addPc rd imm8 => 0b10100#5 ++ lowBits rd ++ imm8
  | .addSp rd imm8 => 0b10101#5 ++ lowBits rd ++ imm8
  | .incSp imm7 => 0b101100000#9 ++ imm7
  | .decSp imm7 => 0b101100001#9 ++ imm7
  | .push lr rlist => 0b1011010#7 ++ BitVec.ofBool lr ++ rlist
  | .pop pc rlist => 0b1011110#7 ++ BitVec.ofBool pc ++ rlist
  | .stmia rb rlist => 0b11000#5 ++ lowBits rb ++ rlist
  | .ldmia rb rlist => 0b11001#5 ++ lowBits rb ++ rlist
  | .beq imm8 => 0b11010000#8 ++ imm8
  | .bne imm8 => 0b11010001#8 ++ imm8
  | .bcs imm8 => 0b11010010#8 ++ imm8
  | .bcc imm8 => 0b11010011#8 ++ imm8
  | .bmi imm8 => 0b11010100#8 ++ imm8
  | .bpl imm8 => 0b11010101#8 ++ imm8
  | .bvs imm8 => 0b11010110#8 ++ imm8
  | .bvc imm8 => 0b11010111#8 ++ imm8
  | .bhi imm8 => 0b11011000#8 ++ imm8
  | .bls imm8 => 0b11011001#8 ++ imm8
  | .bge imm8 => 0b11011010#8 ++ imm8
  | .blt imm8 => 0b11011011#8 ++ imm8
  | .bgt imm8 => 0b11011100#8 ++ imm8
  | .ble imm8 => 0b11011101#8 ++ imm8
  | .bal imm8 => 0b11011110#8 ++ imm8
  | .swi comment => 0b11011111#8 ++ comment
  | .b imm11 => 0b11100#5 ++ imm11
  | .blHi imm11 => 0b11110#5 ++ imm11
  | .blLo imm11 => 0b11111#5 ++ imm11
  | .reserved op => op

/-- The bytes of an instruction in memory order (20_memory.md R65). -/
def encode (i : Instr) : List Byte := [(encodeOp i).extractLsb' 0 8, (encodeOp i).extractLsb' 8 8]

/-! ## The opcode table (opcode_table.json) -/

/-- A row of the table: the opcodes `op` with `op &&& mask = pattern`. -/
structure OpcodeRow where
  mnemonic : String
  pattern : Opcode
  mask : Opcode
deriving DecidableEq, Repr

/-- An opcode is of a row. -/
def OpcodeRow.covers (r : OpcodeRow) (op : Opcode) : Bool := op &&& r.mask == r.pattern

/-- The rows of THUMB.1, THUMB.2, THUMB.3. -/
def rowsMoves : List OpcodeRow :=
  [⟨"LSL_Rd__Rs___imm5", 0x0000, 0xF800⟩,
   ⟨"LSR_Rd__Rs___imm5", 0x0800, 0xF800⟩,
   ⟨"ASR_Rd__Rs___imm5", 0x1000, 0xF800⟩,
   ⟨"ADD_Rd__Rs__Rn", 0x1800, 0xFE00⟩,
   ⟨"SUB_Rd__Rs__Rn", 0x1A00, 0xFE00⟩,
   ⟨"ADD_Rd__Rs___imm3", 0x1C00, 0xFE00⟩,
   ⟨"SUB_Rd__Rs___imm3", 0x1E00, 0xFE00⟩,
   ⟨"MOV_Rd___imm8", 0x2000, 0xF800⟩,
   ⟨"CMP_Rd___imm8", 0x2800, 0xF800⟩,
   ⟨"ADD_Rd___imm8", 0x3000, 0xF800⟩,
   ⟨"SUB_Rd___imm8", 0x3800, 0xF800⟩]

/-- The rows of THUMB.4, THUMB.5. -/
def rowsAlu : List OpcodeRow :=
  [⟨"AND_Rd__Rs", 0x4000, 0xFFC0⟩,
   ⟨"EOR_Rd__Rs", 0x4040, 0xFFC0⟩,
   ⟨"LSL_Rd__Rs", 0x4080, 0xFFC0⟩,
   ⟨"LSR_Rd__Rs", 0x40C0, 0xFFC0⟩,
   ⟨"ASR_Rd__Rs", 0x4100, 0xFFC0⟩,
   ⟨"ADC_Rd__Rs", 0x4140, 0xFFC0⟩,
   ⟨"SBC_Rd__Rs", 0x4180, 0xFFC0⟩,
   ⟨"ROR_Rd__Rs", 0x41C0, 0xFFC0⟩,
   ⟨"TST_Rd__Rs", 0x4200, 0xFFC0⟩,
   ⟨"NEG_Rd__Rs", 0x4240, 0xFFC0⟩,
   ⟨"CMP_Rd__Rs", 0x4280, 0xFFC0⟩,
   ⟨"CMN_Rd__Rs", 0x42C0, 0xFFC0⟩,
   ⟨"ORR_Rd__Rs", 0x4300, 0xFFC0⟩,
   ⟨"MUL_Rd__Rs", 0x4340, 0xFFC0⟩,
   ⟨"BIC_Rd__Rs", 0x4380, 0xFFC0⟩,
   ⟨"MVN_Rd__Rs", 0x43C0, 0xFFC0⟩,
   ⟨"ADD_Rd__Rs__hi", 0x4400, 0xFF00⟩,
   ⟨"CMP_Rd__Rs__hi", 0x4500, 0xFF00⟩,
   ⟨"MOV_Rd__Rs__hi", 0x4600, 0xFF00⟩,
   ⟨"BX_Rs", 0x4700, 0xFF00⟩]

/-- The rows of THUMB.6, THUMB.7, THUMB.8, THUMB.9, THUMB.10, THUMB.11. -/
def rowsLoadStore : List OpcodeRow :=
  [⟨"LDR_Rd___PC___imm8_4", 0x4800, 0xF800⟩,
   ⟨"STR_Rd___Rb__Ro", 0x5000, 0xFE00⟩,
   ⟨"STRB_Rd___Rb__Ro", 0x5400, 0xFE00⟩,
   ⟨"LDR_Rd___Rb__Ro", 0x5800, 0xFE00⟩,
   ⟨"LDRB_Rd___Rb__Ro", 0x5C00, 0xFE00⟩,
   ⟨"STRH_Rd___Rb__Ro", 0x5200, 0xFE00⟩,
   ⟨"LDSB_Rd___Rb__Ro", 0x5600, 0xFE00⟩,
   ⟨"LDRH_Rd___Rb__Ro", 0x5A00, 0xFE00⟩,
   ⟨"LDSH_Rd___Rb__Ro", 0x5E00, 0xFE00⟩,
   ⟨"STR_Rd___Rb___imm5_4", 0x6000, 0xF800⟩,
   ⟨"LDR_Rd___Rb___imm5_4", 0x6800, 0xF800⟩,
   ⟨"STRB_Rd___Rb___imm5", 0x7000, 0xF800⟩,
   ⟨"LDRB_Rd___Rb___imm5", 0x7800, 0xF800⟩,
   ⟨"STRH_Rd___Rb___imm5_2", 0x8000, 0xF800⟩,
   ⟨"LDRH_Rd___Rb___imm5_2", 0x8800, 0xF800⟩,
   ⟨"STR_Rd___SP___imm8_4", 0x9000, 0xF800⟩,
   ⟨"LDR_Rd___SP___imm8_4", 0x9800, 0xF800⟩]

/-- The rows of THUMB.12, THUMB.13, THUMB.14, THUMB.15. -/
def rowsStack : List OpcodeRow :=
  [⟨"ADD_Rd__PC___imm8_4", 0xA000, 0xF800⟩,
   ⟨"ADD_Rd__SP___imm8_4", 0xA800, 0xF800⟩,
   ⟨"ADD_SP___imm7_4", 0xB000, 0xFF80⟩,
   ⟨"ADD_SP___-imm7_4", 0xB080, 0xFF80⟩,
   ⟨"PUSH__rlist___LR", 0xB400, 0xFE00⟩,
   ⟨"POP__rlist___PC", 0xBC00, 0xFE00⟩,
   ⟨"STMIA_Rb____rlist", 0xC000, 0xF800⟩,
   ⟨"LDMIA_Rb____rlist", 0xC800, 0xF800⟩]

/-- The rows of THUMB.16, THUMB.17, THUMB.18, THUMB.19. -/
def rowsBranch : List OpcodeRow :=
  [⟨"BEQ_label", 0xD000, 0xFF00⟩,
   ⟨"BNE_label", 0xD100, 0xFF00⟩,
   ⟨"BCS_label", 0xD200, 0xFF00⟩,
   ⟨"BCC_label", 0xD300, 0xFF00⟩,
   ⟨"BMI_label", 0xD400, 0xFF00⟩,
   ⟨"BPL_label", 0xD500, 0xFF00⟩,
   ⟨"BVS_label", 0xD600, 0xFF00⟩,
   ⟨"BVC_label", 0xD700, 0xFF00⟩,
   ⟨"BHI_label", 0xD800, 0xFF00⟩,
   ⟨"BLS_label", 0xD900, 0xFF00⟩,
   ⟨"BGE_label", 0xDA00, 0xFF00⟩,
   ⟨"BLT_label", 0xDB00, 0xFF00⟩,
   ⟨"BGT_label", 0xDC00, 0xFF00⟩,
   ⟨"BLE_label", 0xDD00, 0xFF00⟩,
   ⟨"BAL_label__cond_14", 0xDE00, 0xFF00⟩,
   ⟨"SWI__imm8", 0xDF00, 0xFF00⟩,
   ⟨"B_label", 0xE000, 0xF800⟩,
   ⟨"BL_label__first_half", 0xF000, 0xF800⟩,
   ⟨"BL_label__second_half", 0xF800, 0xF800⟩]

/-- The rows of the reserved bytes. -/
def rowsReserved : List OpcodeRow :=
  [⟨"RESERVED", 0xB100, 0xFF00⟩,
   ⟨"RESERVED", 0xB200, 0xFF00⟩,
   ⟨"RESERVED", 0xB300, 0xFF00⟩,
   ⟨"RESERVED", 0xB600, 0xFF00⟩,
   ⟨"RESERVED", 0xB700, 0xFF00⟩,
   ⟨"RESERVED", 0xB800, 0xFF00⟩,
   ⟨"RESERVED", 0xB900, 0xFF00⟩,
   ⟨"RESERVED", 0xBA00, 0xFF00⟩,
   ⟨"RESERVED", 0xBB00, 0xFF00⟩,
   ⟨"RESERVED", 0xBE00, 0xFF00⟩,
   ⟨"RESERVED", 0xBF00, 0xFF00⟩,
   ⟨"RESERVED", 0xE800, 0xFF00⟩,
   ⟨"RESERVED", 0xE900, 0xFF00⟩,
   ⟨"RESERVED", 0xEA00, 0xFF00⟩,
   ⟨"RESERVED", 0xEB00, 0xFF00⟩,
   ⟨"RESERVED", 0xEC00, 0xFF00⟩,
   ⟨"RESERVED", 0xED00, 0xFF00⟩,
   ⟨"RESERVED", 0xEE00, 0xFF00⟩,
   ⟨"RESERVED", 0xEF00, 0xFF00⟩]

/-- The ninety-four rows. -/
def opcodeTable : List OpcodeRow :=
  rowsMoves ++ rowsAlu ++ rowsLoadStore ++ rowsStack ++ rowsBranch ++ rowsReserved

/-- The mnemonic of an instruction, as the table spells it. -/
def Instr.mnemonic : Instr → String
  | .lslImm _ _ _ => "LSL_Rd__Rs___imm5"
  | .lsrImm _ _ _ => "LSR_Rd__Rs___imm5"
  | .asrImm _ _ _ => "ASR_Rd__Rs___imm5"
  | .addReg _ _ _ => "ADD_Rd__Rs__Rn"
  | .subReg _ _ _ => "SUB_Rd__Rs__Rn"
  | .addImm3 _ _ _ => "ADD_Rd__Rs___imm3"
  | .subImm3 _ _ _ => "SUB_Rd__Rs___imm3"
  | .movImm8 _ _ => "MOV_Rd___imm8"
  | .cmpImm8 _ _ => "CMP_Rd___imm8"
  | .addImm8 _ _ => "ADD_Rd___imm8"
  | .subImm8 _ _ => "SUB_Rd___imm8"
  | .andAlu _ _ => "AND_Rd__Rs"
  | .eorAlu _ _ => "EOR_Rd__Rs"
  | .lslAlu _ _ => "LSL_Rd__Rs"
  | .lsrAlu _ _ => "LSR_Rd__Rs"
  | .asrAlu _ _ => "ASR_Rd__Rs"
  | .adcAlu _ _ => "ADC_Rd__Rs"
  | .sbcAlu _ _ => "SBC_Rd__Rs"
  | .rorAlu _ _ => "ROR_Rd__Rs"
  | .tstAlu _ _ => "TST_Rd__Rs"
  | .negAlu _ _ => "NEG_Rd__Rs"
  | .cmpAlu _ _ => "CMP_Rd__Rs"
  | .cmnAlu _ _ => "CMN_Rd__Rs"
  | .orrAlu _ _ => "ORR_Rd__Rs"
  | .mulAlu _ _ => "MUL_Rd__Rs"
  | .bicAlu _ _ => "BIC_Rd__Rs"
  | .mvnAlu _ _ => "MVN_Rd__Rs"
  | .addHi _ _ => "ADD_Rd__Rs__hi"
  | .cmpHi _ _ => "CMP_Rd__Rs__hi"
  | .movHi _ _ => "MOV_Rd__Rs__hi"
  | .bx _ _ _ => "BX_Rs"
  | .ldrPc _ _ => "LDR_Rd___PC___imm8_4"
  | .strRo _ _ _ => "STR_Rd___Rb__Ro"
  | .strbRo _ _ _ => "STRB_Rd___Rb__Ro"
  | .ldrRo _ _ _ => "LDR_Rd___Rb__Ro"
  | .ldrbRo _ _ _ => "LDRB_Rd___Rb__Ro"
  | .strhRo _ _ _ => "STRH_Rd___Rb__Ro"
  | .ldsbRo _ _ _ => "LDSB_Rd___Rb__Ro"
  | .ldrhRo _ _ _ => "LDRH_Rd___Rb__Ro"
  | .ldshRo _ _ _ => "LDSH_Rd___Rb__Ro"
  | .strImm _ _ _ => "STR_Rd___Rb___imm5_4"
  | .ldrImm _ _ _ => "LDR_Rd___Rb___imm5_4"
  | .strbImm _ _ _ => "STRB_Rd___Rb___imm5"
  | .ldrbImm _ _ _ => "LDRB_Rd___Rb___imm5"
  | .strhImm _ _ _ => "STRH_Rd___Rb___imm5_2"
  | .ldrhImm _ _ _ => "LDRH_Rd___Rb___imm5_2"
  | .strSp _ _ => "STR_Rd___SP___imm8_4"
  | .ldrSp _ _ => "LDR_Rd___SP___imm8_4"
  | .addPc _ _ => "ADD_Rd__PC___imm8_4"
  | .addSp _ _ => "ADD_Rd__SP___imm8_4"
  | .incSp _ => "ADD_SP___imm7_4"
  | .decSp _ => "ADD_SP___-imm7_4"
  | .push _ _ => "PUSH__rlist___LR"
  | .pop _ _ => "POP__rlist___PC"
  | .stmia _ _ => "STMIA_Rb____rlist"
  | .ldmia _ _ => "LDMIA_Rb____rlist"
  | .beq _ => "BEQ_label"
  | .bne _ => "BNE_label"
  | .bcs _ => "BCS_label"
  | .bcc _ => "BCC_label"
  | .bmi _ => "BMI_label"
  | .bpl _ => "BPL_label"
  | .bvs _ => "BVS_label"
  | .bvc _ => "BVC_label"
  | .bhi _ => "BHI_label"
  | .bls _ => "BLS_label"
  | .bge _ => "BGE_label"
  | .blt _ => "BLT_label"
  | .bgt _ => "BGT_label"
  | .ble _ => "BLE_label"
  | .bal _ => "BAL_label__cond_14"
  | .swi _ => "SWI__imm8"
  | .b _ => "B_label"
  | .blHi _ => "BL_label__first_half"
  | .blLo _ => "BL_label__second_half"
  | .reserved _ => "RESERVED"

end Sys2Proof
end

