-- ==== Sys2Proof/Machine/State.lean ====
section
/-! DEFINITION. The state of the core (10_state.md): the CPU context (R20 to R34), the memory behind the bus
(20_memory.md R63), the interrupt request input (60_exceptions.md R303), and the output of the bus interface
(00_scope.md R10). INVENTORY.md lists every field with its rule and its reset value. -/

namespace Sys2Proof.Machine

/-! ## Modes and banks -/

/-- The seven modes (R31). -/
inductive Mode
  | user | fiq | irq | supervisor | abort | undefined | system
deriving DecidableEq, Repr

/-- The six register banks (R23). -/
inductive Bank
  | usr | fiq | svc | abt | irq | und
deriving DecidableEq, Repr

/-- A bank's slots for R13 and R14 (R23). -/
structure StackSlots where
  r13 : Word
  r14 : Word
deriving DecidableEq, Repr

/-- A bank's slots for R8 to R12, which only USR and FIQ have (R23, R24). -/
structure HighSlots where
  r8 : Word
  r9 : Word
  r10 : Word
  r11 : Word
  r12 : Word
deriving DecidableEq, Repr

/-- The banked shadow registers `bank[b][i]` (R23). -/
structure Banks where
  usrHigh : HighSlots
  fiqHigh : HighSlots
  usr : StackSlots
  fiq : StackSlots
  svc : StackSlots
  abt : StackSlots
  irq : StackSlots
  und : StackSlots
deriving DecidableEq, Repr

/-- The saved program status registers (R32). User and System mode have none. -/
structure Spsrs where
  fiq : Word
  svc : Word
  abt : Word
  irq : Word
  und : Word
deriving DecidableEq, Repr

/-! ## The prefetch pipeline -/

/-- The three-slot prefetch pipeline and its index (R33). -/
structure Pipe where
  opcode : Vector Word 3
  index : Fin 3
deriving DecidableEq, Repr

/-! ## Memory and the bus interface -/

/-- Memory: the bytes that differ from `Config.unlistedByte`, by strictly rising address. -/
abbrev Memory := List Host.Cell

/-- What answers at an address (20_memory.md R62, R81): read-write memory; memory that a write leaves alone; or
anything else, a device or nothing at all, whose answers are free (log 5). -/
inductive RegionKind
  | ram | rom | external
deriving DecidableEq, Repr

/-- The words of a kind, from the address `first` to the address `last`, both included. -/
structure Region where
  first : Word
  last : Word
  kind : RegionKind
deriving DecidableEq, Repr

/-- The widening tag of a read: neither SIGNED nor ROTATE, or one of them; never both (20_memory.md R61). -/
inductive Widen
  | plain | signed | rotate
deriving DecidableEq, Repr

/-- What the core does on its bus interface (00_scope.md R10): a read, a write with the low bits it writes, both with
the address the handler passes and the access tag, or `Internal(k)`. -/
inductive BusEvent
  | read (addr : Word) (width : Width) (tag : SeqTag) (widen : Widen)
  | write (addr : Word) (width : Width) (value : Word) (tag : SeqTag)
  | internal (cycles : Nat)
deriving DecidableEq, Repr

/-! ## The state -/

/-- The state of the core and of the memory behind its bus. -/
structure State where
  /-- The active registers R0 to R15 (R20); `x[15]` is the PC (R22). -/
  x : Vector Word 16
  bank : Banks
  /-- The current program status register (R27). -/
  cpsr : Word
  spsr : Spsrs
  pipe : Pipe
  /-- The map of the bus, the first region that holds an address deciding; an address in none is read-write memory, so
  that the empty map is the reference bus (20_memory.md R63). No step changes it. -/
  regions : List Region
  /-- The contents of the memory behind the bus (R63). -/
  mem : Memory
  /-- The levels `irq_line` will have at the coming instruction boundaries, the next one first; inactive after the
  last one listed (log 6). -/
  irqLine : List Bool
  /-- The bus events so far, oldest first: the model's own record of the core's output (log 9). What the bus answers
  outside memory depends on them. -/
  trace : List BusEvent
deriving DecidableEq, Repr

/-- The reasons the model stops (00_scope.md R12(c), a closed list). None is an event of the hardware. -/
inductive Fault
  /-- Raised by the meaning of every reserved opcode (47 R275). Safe: the hardware does something the spec does not
  describe. -/
  | reservedEncoding
  /-- Raised by PUSH, POP, STMIA and LDMIA with an empty register list (46 R252, R256). Safe. -/
  | emptyRegisterList
  /-- Raised by the mode switch of an exception entry or return when the old or the new mode number is none of the
  seven (10_state.md R25), and by an exception return from a mode without an SPSR (log 12). Safe. -/
  | illegalMode
deriving DecidableEq, Repr

/-- The reasons the model gives no step. -/
inductive Refusal
  /-- An instruction that has no meaning yet: raised by `exec` only. Safe. -/
  | notModelled (mnemonic : String)
  /-- A step asked of a core in ARM state, whose decoder is outside the spec (00_scope.md R12(b), log 7): raised by
  `step`. Safe. -/
  | armState
deriving DecidableEq, Repr

/-- The outcome of a step of this machine. -/
abbrev Out := Host.Outcome State Fault Refusal

/-- The state right after reset (10_state.md R41, 70_reset_and_hazards.md R350): Supervisor mode, interrupts masked,
ARM state, the pipeline refilled from address 0. The registers, flags, SPSRs and the dead slot that R41 leaves
unspecified hold zero: DESIGN CHOICE, unsafe (log 1 to 4). -/
def State.reset : State where
  x := #v[0, 0, 0, 0, 0, 0, 0, 0, 0, 0, 0, 0, 0, 0, 0, 8]
  bank :=
    { usrHigh := ⟨0, 0, 0, 0, 0⟩, fiqHigh := ⟨0, 0, 0, 0, 0⟩, usr := ⟨0, 0⟩, fiq := ⟨0, 0⟩, svc := ⟨0, 0⟩,
      abt := ⟨0, 0⟩, irq := ⟨0, 0⟩, und := ⟨0, 0⟩ }
  cpsr := 0x000000D3
  spsr := ⟨0, 0, 0, 0, 0⟩
  pipe := { opcode := #v[0, 0, 0], index := 0 }
  regions := []
  mem := []
  irqLine := []
  trace := [.read 0 .word .nonseq .plain, .read 4 .word .seq .plain]

end Sys2Proof.Machine
end

