-- ==== Sys2Proof/Machine/Psr.lean ====
section
/-! DEFINITION. The fields of a program status register (10_state.md R27, R31) and the bit-field helpers of the
core's words. -/

namespace Sys2Proof.Machine

/-! ## Bits of a word -/

/-- `w` with bit `i` set to `b`. -/
def setBit (w : Word) (i : Nat) (b : Bool) : Word := if b then w ||| (1#32 <<< i) else w &&& ~~~(1#32 <<< i)

/-- `w & ~1` (00_scope.md R7). -/
def clearBit0 (w : Word) : Word := w &&& 0xFFFFFFFE

/-- `w & ~2`. -/
def clearBit1 (w : Word) : Word := w &&& 0xFFFFFFFD

/-- `w & ~3`. -/
def clearBits10 (w : Word) : Word := w &&& 0xFFFFFFFC

/-! ## Fields of a status register (R27) -/

def psrN (p : Word) : Bool := p.getLsbD 31
def psrZ (p : Word) : Bool := p.getLsbD 30
def psrC (p : Word) : Bool := p.getLsbD 29
def psrV (p : Word) : Bool := p.getLsbD 28
def psrI (p : Word) : Bool := p.getLsbD 7
def psrF (p : Word) : Bool := p.getLsbD 6
def psrT (p : Word) : Bool := p.getLsbD 5
def psrM (p : Word) : BitVec 5 := p.extractLsb' 0 5

def setPsrN (b : Bool) (p : Word) : Word := setBit p 31 b
def setPsrZ (b : Bool) (p : Word) : Word := setBit p 30 b
def setPsrC (b : Bool) (p : Word) : Word := setBit p 29 b
def setPsrV (b : Bool) (p : Word) : Word := setBit p 28 b
def setPsrI (b : Bool) (p : Word) : Word := setBit p 7 b
def setPsrF (b : Bool) (p : Word) : Word := setBit p 6 b
def setPsrT (b : Bool) (p : Word) : Word := setBit p 5 b
def setPsrM (m : BitVec 5) (p : Word) : Word := p.extractLsb' 5 27 ++ m

/-! ## Modes (R31) and their banks (R24) -/

/-- The number of a mode. -/
def Mode.bits : Mode → BitVec 5
  | .user => 0b10000
  | .fiq => 0b10001
  | .irq => 0b10010
  | .supervisor => 0b10011
  | .abort => 0b10111
  | .undefined => 0b11011
  | .system => 0b11111

/-- The mode of a number; none for the illegal values. -/
def modeOfBits (m : BitVec 5) : Option Mode :=
  [Mode.user, .fiq, .irq, .supervisor, .abort, .undefined, .system].find? (fun k => k.bits == m)

/-- The bank of a mode: User and System share one. -/
def Mode.bank : Mode → Bank
  | .user => .usr
  | .fiq => .fiq
  | .irq => .irq
  | .supervisor => .svc
  | .abort => .abt
  | .undefined => .und
  | .system => .usr

/-- `BankOf(m)` (R24). -/
def bankOf (m : BitVec 5) : Option Bank := (modeOfBits m).map Mode.bank

/-- `m` is one of the seven legal mode numbers. -/
def legalMode (m : BitVec 5) : Bool := (modeOfBits m).isSome

end Sys2Proof.Machine
end

