-- ==== Sys2Proof/Machine/Flags.lean ====
section
/-! DEFINITION. The barrel shifter (40_pipeline_shifter_flags.md R130 to R134), the flag helpers (R135 to R139) and
the condition table (R140). -/

namespace Sys2Proof.Machine

/-! ## Barrel shifter -/

/-- The four shift types. -/
inductive ShiftType
  | lsl | lsr | asr | ror
deriving DecidableEq, Repr

/-- A shifter result and its carry-out. -/
structure Shifted where
  value : Word
  carry : Bool
deriving DecidableEq, Repr

/-- The word all of whose bits are the sign bit of `v`. -/
def signFill (v : Word) : Word := if v.getLsbD 31 then 0xFFFFFFFF else 0

/-- `v` shifted or rotated by an amount in 1..31; the carry-out is the last bit shifted out. -/
def shiftWithin : ShiftType → Word → Nat → Shifted
  | .lsl, v, n => ⟨v <<< n, v.getLsbD (32 - n)⟩
  | .lsr, v, n => ⟨v >>> n, v.getLsbD (n - 1)⟩
  | .asr, v, n => ⟨v.sshiftRight n, v.getLsbD (n - 1)⟩
  | .ror, v, n => ⟨v.rotateRight n, v.getLsbD (n - 1)⟩

/-- `ShiftImm` with amount 0: LSL is the identity, LSR and ASR shift by 32, ROR is RRX (R130 to R133). -/
def shiftImmZero : ShiftType → Word → Bool → Shifted
  | .lsl, v, c => ⟨v, c⟩
  | .lsr, v, _ => ⟨0, v.getLsbD 31⟩
  | .asr, v, _ => ⟨signFill v, v.getLsbD 31⟩
  | .ror, v, c => ⟨setBit (v >>> 1) 31 c, v.getLsbD 0⟩

/-- `ShiftImm(type, v, n, c_in)`, n in 0..31 (R130 to R133). -/
def shiftImm (t : ShiftType) (v : Word) (n : BitVec 5) (c : Bool) : Shifted :=
  if n = 0 then shiftImmZero t v c else shiftWithin t v n.toNat

/-- `ShiftReg` with an amount of 32 or more (R134). -/
def shiftRegLarge : ShiftType → Word → Nat → Shifted
  | .lsl, v, n => ⟨0, if n = 32 then v.getLsbD 0 else false⟩
  | .lsr, v, n => ⟨0, if n = 32 then v.getLsbD 31 else false⟩
  | .asr, v, _ => ⟨signFill v, v.getLsbD 31⟩
  | .ror, v, n => if n % 32 = 0 then ⟨v, v.getLsbD 31⟩ else shiftWithin .ror v (n % 32)

/-- `ShiftReg(type, v, n, c_in)`, n in 0..255 (R134). -/
def shiftReg (t : ShiftType) (v : Word) (n : BitVec 8) (c : Bool) : Shifted :=
  if n = 0 then ⟨v, c⟩ else if n.toNat < 32 then shiftWithin t v n.toNat else shiftRegLarge t v n.toNat

/-! ## Flag helpers -/

/-- An arithmetic result with its carry and overflow. -/
structure Arith where
  value : Word
  carry : Bool
  overflow : Bool
deriving DecidableEq, Repr

/-- Signed overflow of an addition: the operands agree in sign and the result does not (R136). -/
def addOverflow (a b r : Word) : Bool := (~~~(a ^^^ b) &&& (a ^^^ r)).getLsbD 31

/-- Signed overflow of a subtraction: the operands differ in sign and the result differs from the first (R137). -/
def subOverflow (a b r : Word) : Bool := ((a ^^^ b) &&& (a ^^^ r)).getLsbD 31

/-- `AdcFlags(a, b, c)` (R138), from the unbounded sum. -/
def adcFlags (a b : Word) (c : Bool) : Arith :=
  let sum := a.toNat + b.toNat + c.toNat
  let r := BitVec.ofNat 32 sum
  ⟨r, decide (2 ^ 32 ≤ sum), addOverflow a b r⟩

/-- `AddFlags(a, b)` (R136). -/
def addFlags (a b : Word) : Arith :=
  let sum := a.toNat + b.toNat
  let r := BitVec.ofNat 32 sum
  ⟨r, decide (2 ^ 32 ≤ sum), addOverflow a b r⟩

/-- `SubFlags(a, b)` (R137): the carry is "no borrow". -/
def subFlags (a b : Word) : Arith :=
  let r := a - b
  ⟨r, decide (b.toNat ≤ a.toNat), subOverflow a b r⟩

/-- `SbcFlags(a, b, c)` (R139), from the unbounded sum `a + ~b + c`. -/
def sbcFlags (a b : Word) (c : Bool) : Arith :=
  let sum := a.toNat + (~~~b).toNat + c.toNat
  let r := BitVec.ofNat 32 sum
  ⟨r, decide (2 ^ 32 ≤ sum), subOverflow a b r⟩

/-! ## Writing flags into a status register -/

/-- `SetNZ(r)` (R135). -/
def putNZ (r : Word) (p : Word) : Word := setPsrZ (r == 0) (setPsrN (r.getLsbD 31) p)

/-- N, Z from a result, and C. -/
def putNZC (r : Word) (c : Bool) (p : Word) : Word := setPsrC c (putNZ r p)

/-- N, Z from a result, C and V. -/
def putNZCV (f : Arith) (p : Word) : Word := setPsrV f.overflow (putNZC f.value f.carry p)

/-! ## Conditions -/

/-- The fifteen conditions of THUMB.16 (R140). -/
inductive Cond
  | eq | ne | cs | cc | mi | pl | vs | vc | hi | ls | ge | lt | gt | le | al
deriving DecidableEq, Repr

/-- `CondPassed` on a status register (R140). -/
def condPassed (p : Word) : Cond → Bool
  | .eq => psrZ p
  | .ne => !psrZ p
  | .cs => psrC p
  | .cc => !psrC p
  | .mi => psrN p
  | .pl => !psrN p
  | .vs => psrV p
  | .vc => !psrV p
  | .hi => psrC p && !psrZ p
  | .ls => !psrC p || psrZ p
  | .ge => psrN p == psrV p
  | .lt => psrN p != psrV p
  | .gt => !psrZ p && (psrN p == psrV p)
  | .le => psrZ p || (psrN p != psrV p)
  | .al => true

end Sys2Proof.Machine
end

