-- ==== Sys2Proof/Machine/Memory.lean ====
section
/-! DEFINITION. Memory: bytes by address in one canonical form, and on top of them the accesses of the reference bus
(20_memory.md R63), little-endian (R65). -/

namespace Sys2Proof.Machine

/-! ## Bytes -/

/-- The byte at an address. -/
def Memory.read : Memory → Nat → Byte
  | [], _ => Config.unlistedByte
  | (k, v) :: m, a => if k = a then v else Memory.read m a

/-- Memory with one byte replaced. Writing what an unlisted address reads as takes the entry out. -/
def Memory.write : Memory → Nat → Byte → Memory
  | [], a, b => if b = Config.unlistedByte then [] else [(a, b)]
  | (k, v) :: m, a, b =>
    if a < k then if b = Config.unlistedByte then (k, v) :: m else (a, b) :: (k, v) :: m
    else if a = k then if b = Config.unlistedByte then m else (a, b) :: m
    else (k, v) :: Memory.write m a b

/-- The canonical form with every address at least `lo`: strictly rising addresses below 2^32, no entry equal to what
an unlisted address reads as. -/
def Memory.wfFrom (lo : Nat) : Memory → Bool
  | [] => true
  | (k, v) :: m => decide (lo ≤ k) && decide (k < 2 ^ 32) && decide (v ≠ Config.unlistedByte) && Memory.wfFrom (k + 1) m

/-- The canonical form of memory. -/
def Memory.wf (m : Memory) : Bool := Memory.wfFrom 0 m

/-! ## The reference bus (R63) -/

/-- The address an access of a width is made at: the low bits are ignored (R63, R71). -/
def Width.align : Width → Word → Word
  | .byte, a => a
  | .half, a => clearBit0 a
  | .word, a => clearBits10 a

/-- The number of bytes of a width (R60). -/
def Width.bytes : Width → Nat
  | .byte => 1
  | .half => 2
  | .word => 4

/-- The low bits of a value that an access of a width moves. -/
def Width.trunc : Width → Word → Word
  | .byte, v => (v.setWidth 8).setWidth 32
  | .half, v => (v.setWidth 16).setWidth 32
  | .word, v => v

/-- `Bus.read(a, 1)`. -/
def readByte (m : Memory) (a : Word) : Byte := m.read a.toNat

/-- `Bus.read(a, 2)`: the halfword at `a & ~1`, its low byte first. -/
def readHalf (m : Memory) (a : Word) : BitVec 16 :=
  let k := (clearBit0 a).toNat
  m.read (k + 1) ++ m.read k

/-- `Bus.read(a, 4)`: the word at `a & ~3`, its low byte first. -/
def readWord (m : Memory) (a : Word) : Word :=
  let k := (clearBits10 a).toNat
  m.read (k + 3) ++ m.read (k + 2) ++ m.read (k + 1) ++ m.read k

/-- `Bus.write` (R63, R71): the low bytes of `v` at the aligned address, low byte first. -/
def busWrite (m : Memory) (a : Word) (w : Width) (v : Word) : Memory :=
  let k := (w.align a).toNat
  match w with
  | .byte => m.write k (v.extractLsb' 0 8)
  | .half => (m.write k (v.extractLsb' 0 8)).write (k + 1) (v.extractLsb' 8 8)
  | .word =>
    (((m.write k (v.extractLsb' 0 8)).write (k + 1) (v.extractLsb' 8 8)).write (k + 2) (v.extractLsb' 16 8)).write
      (k + 3) (v.extractLsb' 24 8)

end Sys2Proof.Machine
end

