-- ==== Sys2Proof/Machine/Bus.lean ====
section
/-! DEFINITION. The bus, the parameter `Bus` of 00_scope.md R6: at an address of memory it is the reference bus
(20_memory.md R63), elsewhere its answers are free (R62); on top of it `MemRead` with its widening (R66 to R70) and
the memory a `MemWrite` leaves (R71). -/

namespace Sys2Proof.Machine

/-! ## The map -/

/-- A region holds an address: by whole words, so that one access never meets two regions. -/
def Region.holds (r : Region) (a : Word) : Bool :=
  decide (r.first ≤ clearBits10 a) && decide (clearBits10 a ≤ r.last)

/-- What answers at an address. -/
def State.kindAt (s : State) (a : Word) : RegionKind :=
  match s.regions.find? fun r => r.holds a with
  | some r => r.kind
  | none => .ram

/-! ## What the bus has seen -/

/-- The access of an event (R66 to R71): a read at the aligned address, and one byte for an LDSH at an odd address
(R68); a write at the address the handler passes, which the bus may see (R71). -/
def BusEvent.access : BusEvent → Option BusAccess
  | .read a .half _ .signed => some (if a.getLsbD 0 then .read a .byte else .read a .half)
  | .read a w _ _ => some (.read (w.align a) w)
  | .write a w v _ => some (.write a w v)
  | .internal _ => none

/-- The accesses so far, oldest first. -/
def State.accesses (s : State) : List BusAccess := s.trace.filterMap BusEvent.access

/-- The free answer at an address that is no memory. -/
def State.answer (s : State) (a : Word) (w : Width) : Word := Config.busAnswer s.accesses (w.align a) w

/-! ## `Bus.read` and `Bus.write` (R60) -/

/-- `Bus.read(a, 1)`. -/
def State.busByte (s : State) (a : Word) : Byte :=
  if s.kindAt a = .external then (s.answer a .byte).setWidth 8 else readByte s.mem a

/-- `Bus.read(a & ~1, 2)`. -/
def State.busHalf (s : State) (a : Word) : BitVec 16 :=
  if s.kindAt a = .external then (s.answer a .half).setWidth 16 else readHalf s.mem a

/-- `Bus.read(a & ~3, 4)`. -/
def State.busWord (s : State) (a : Word) : Word :=
  if s.kindAt a = .external then s.answer a .word else readWord s.mem a

/-- The memory after `Bus.write` at the aligned address: the bytes are stored where it is read-write memory; elsewhere
the write completes (R62) and no memory changes (log 5). -/
def State.busStore (s : State) (a : Word) (w : Width) (v : Word) : Memory :=
  if s.kindAt a = .ram then busWrite s.mem a w v else s.mem

/-! ## Reads with their widening (R66 to R70) -/

/-- Byte read (R66). -/
def State.loadByte (s : State) (a : Word) : Widen → Word
  | .signed => (s.busByte a).signExtend 32
  | .plain | .rotate => (s.busByte a).setWidth 32

/-- Halfword read (R67, R68): at an odd address ROTATE rotates right by 8 and SIGNED loads the signed byte. -/
def State.loadHalf (s : State) (a : Word) : Widen → Word
  | .plain => (s.busHalf a).setWidth 32
  | .rotate =>
    if a.getLsbD 0 then ((s.busHalf a).setWidth 32 : Word).rotateRight 8 else (s.busHalf a).setWidth 32
  | .signed => if a.getLsbD 0 then (s.busByte a).signExtend 32 else (s.busHalf a).signExtend 32

/-- Word read (R69, R70): ROTATE rotates right by 8 times the low address bits. -/
def State.loadWord (s : State) (a : Word) : Widen → Word
  | .rotate => (s.busWord a).rotateRight (8 * (a.extractLsb' 0 2).toNat)
  | .plain | .signed => s.busWord a

/-- The value of `MemRead(addr, n, tags)` (00_scope.md R10). -/
def State.load (s : State) (a : Word) : Width → Widen → Word
  | .byte, e => s.loadByte a e
  | .half, e => s.loadHalf a e
  | .word, e => s.loadWord a e

end Sys2Proof.Machine
end

