-- ==== Sys2Proof/Machine/Ops.lean ====
section
/-! DEFINITION. The named operations of the core over its state: registers, bus accesses, the pipeline primitives
(40_pipeline_shifter_flags.md R120 to R123), the mode switch (10_state.md R25), exception entry and return
(60_exceptions.md R301, R304, R309), reset and start (70_reset_and_hazards.md R350, R351), and the interrupt input. -/

namespace Sys2Proof.Machine

/-! ## Registers -/

/-- R13, the stack pointer. -/
abbrev spReg : Reg := 13

/-- R14, the link register. -/
abbrev lrReg : Reg := 14

/-- R15, the program counter. -/
abbrev pcReg : Reg := 15

/-- A low register as one of the sixteen. -/
def low (r : LowReg) : Reg := r.castLE (by decide)

/-- `x[r]` (00_scope.md R9). -/
def State.reg (s : State) (r : Reg) : Word := s.x.get r

/-- `x[r] <- v`. -/
def State.setReg (s : State) (r : Reg) (v : Word) : State := { s with x := s.x.set r v }

/-- The CPSR written. -/
def State.setCpsr (s : State) (p : Word) : State := { s with cpsr := p }

/-! ## Bus accesses (00_scope.md R10) -/

/-- Bus events are recorded: the bus has seen them. -/
def State.after (s : State) (es : List BusEvent) : State := { s with trace := s.trace ++ es }

/-- One bus event is recorded. -/
def State.emit (s : State) (e : BusEvent) : State := s.after [e]

/-- `MemWrite(a, n, v, {tag})`. -/
def State.store (s : State) (a : Word) (w : Width) (v : Word) (tag : SeqTag) : State :=
  { s with mem := s.busStore a w v }.emit (.write a w (w.trunc v) tag)

/-- `x[r] <- MemRead(a, n, {tag, widen})`. -/
def State.loadReg (s : State) (r : Reg) (a : Word) (w : Width) (tag : SeqTag) (e : Widen) : State :=
  (s.setReg r (s.load a w e)).emit (.read a w tag e)

/-! ## The pipeline -/

/-- Slot `k` of the pipeline filled. -/
def State.setSlot (s : State) (k : Fin 3) (v : Word) : State :=
  { s with pipe := { s.pipe with opcode := s.pipe.opcode.set k v } }

/-- `pipe.index <- k`. -/
def State.setIndex (s : State) (k : Fin 3) : State := { s with pipe := { s.pipe with index := k } }

/-- `pipe.opcode[k] <- MemRead(a, n, {tag})`. -/
def State.fetchSlot (s : State) (k : Fin 3) (a : Word) (w : Width) (tag : SeqTag) : State :=
  (s.setSlot k (s.load a w .plain)).emit (.read a w tag .plain)

/-- `PREFETCH(pa)` of a handler of format `f` (R120): the halfword at `x[15]` into slot `(index + 2) mod 3`. -/
def State.prefetch (s : State) (f : ThumbFormat) : State :=
  s.fetchSlot (s.pipe.index + 2) (s.reg pcReg) .half (Config.prefetchAcc f)

/-- `ADVANCE_PC` in THUMB state (R121). -/
def State.advance (s : State) : State := (s.setIndex (s.pipe.index + 1)).setReg pcReg (s.reg pcReg + 2)

/-- `pc <- t; REFILL_T` (R122). -/
def State.jumpThumb (s : State) (t : Word) : State :=
  (((s.setIndex 0).fetchSlot 0 t .half .nonseq).fetchSlot 1 (t + 2) .half .seq).setReg pcReg (t + 4)

/-- `pc <- t; REFILL_A` (R123). -/
def State.jumpArm (s : State) (t : Word) : State :=
  (((s.setIndex 0).fetchSlot 0 t .word .nonseq).fetchSlot 1 (t + 4) .word .seq).setReg pcReg (t + 8)

/-- The opcode the next THUMB step executes (R126). -/
def State.nextOpcode (s : State) : Opcode := (s.pipe.opcode.get s.pipe.index).setWidth 16

/-! ## Banks and modes -/

/-- A bank's R13 and R14 slots. -/
def Banks.stack (b : Banks) : Bank → StackSlots
  | .usr => b.usr
  | .fiq => b.fiq
  | .svc => b.svc
  | .abt => b.abt
  | .irq => b.irq
  | .und => b.und

/-- A bank's R13 and R14 slots written. -/
def Banks.setStack (b : Banks) : Bank → StackSlots → Banks
  | .usr, v => { b with usr := v }
  | .fiq, v => { b with fiq := v }
  | .svc, v => { b with svc := v }
  | .abt, v => { b with abt := v }
  | .irq, v => { b with irq := v }
  | .und, v => { b with und := v }

/-- The active R13 and R14. -/
def State.activeStack (s : State) : StackSlots := ⟨s.reg 13, s.reg 14⟩

/-- The active R8 to R12. -/
def State.activeHigh (s : State) : HighSlots := ⟨s.reg 8, s.reg 9, s.reg 10, s.reg 11, s.reg 12⟩

/-- The active R13 and R14 written. -/
def State.putStack (s : State) (v : StackSlots) : State := (s.setReg 13 v.r13).setReg 14 v.r14

/-- The active R8 to R12 written. -/
def State.putHigh (s : State) (v : HighSlots) : State :=
  ((((s.setReg 8 v.r8).setReg 9 v.r9).setReg 10 v.r10).setReg 11 v.r11).setReg 12 v.r12

/-- The "save" half of `SwitchMode` (R25): the active registers into the old bank, R8 to R12 only when FIQ is left
or entered. -/
def State.saveBank (s : State) (old new : Bank) : State :=
  let b := s.bank.setStack old s.activeStack
  { s with bank :=
      if old = .fiq then { b with fiqHigh := s.activeHigh }
      else if new = .fiq then { b with usrHigh := s.activeHigh }
      else b }

/-- The "restore" half of `SwitchMode` (R25). -/
def State.restoreBank (s : State) (old new : Bank) : State :=
  let s' := s.putStack (s.bank.stack new)
  if new = .fiq then s'.putHigh s.bank.fiqHigh else if old = .fiq then s'.putHigh s.bank.usrHigh else s'

/-- `SwitchMode(new)` (R25). Within one bank no register moves. -/
def switchMode (new : BitVec 5) (s : State) : Out :=
  match bankOf (psrM s.cpsr), bankOf new with
  | some bo, some bn =>
    let s' := s.setCpsr (setPsrM new s.cpsr)
    if bo = bn then .next s' else .next ((s'.saveBank bo bn).restoreBank bo bn)
  | _, _ => .fault .illegalMode

/-- The architectural register "Ri of bank b" (R24): the active register when the current mode uses `b` for Ri, else
the bank's slot. R0 to R7 and R15 are the same in every bank. -/
def State.bankedReg (s : State) (b : Bank) (i : Reg) : Word :=
  if i = 13 ∨ i = 14 then
    if bankOf (psrM s.cpsr) = some b then s.reg i
    else if i = 13 then (s.bank.stack b).r13 else (s.bank.stack b).r14
  else if 8 ≤ i ∧ i ≤ 12 then
    if (bankOf (psrM s.cpsr) = some .fiq ↔ b = .fiq) then s.reg i
    else
      let h := if b = .fiq then s.bank.fiqHigh else s.bank.usrHigh
      if i = 8 then h.r8 else if i = 9 then h.r9 else if i = 10 then h.r10 else if i = 11 then h.r11 else h.r12
  else s.reg i

/-- `spsr[b]`; the USR bank has none (R32). -/
def Spsrs.get (p : Spsrs) : Bank → Option Word
  | .usr => none
  | .fiq => some p.fiq
  | .svc => some p.svc
  | .abt => some p.abt
  | .irq => some p.irq
  | .und => some p.und

/-- `spsr[b] <- v`; nothing is written for the USR bank, which has none (R32). -/
def Spsrs.set (p : Spsrs) : Bank → Word → Spsrs
  | .usr, _ => p
  | .fiq, v => { p with fiq := v }
  | .svc, v => { p with svc := v }
  | .abt, v => { p with abt := v }
  | .irq, v => { p with irq := v }
  | .und, v => { p with und := v }

/-- The state of an outcome is handed on. -/
def andThen (o : Out) (k : State → Out) : Out :=
  match o with
  | .next s => k s
  | .fault r => .fault r
  | .refused r => .refused r

/-! ## Taking an exception and returning from one -/

/-- The SWI vector (00_scope.md R5). -/
def vectorSwi : Word := 0x00000008

/-- The IRQ vector (60_exceptions.md R300). -/
def vectorIrq : Word := 0x00000018

/-- The part of `EnterException` after the mode switch (R301): `old` is the CPSR from before. -/
def enterHandler (mode : Mode) (vector link old : Word) (s : State) : State :=
  let s1 := s.setReg lrReg link
  let s2 := { s1 with spsr := s1.spsr.set mode.bank old }
  (s2.setCpsr (setPsrT false (setPsrI true s2.cpsr))).jumpArm vector

/-- `EnterException(mode, vector, link)` (R301). -/
def enterException (mode : Mode) (vector link : Word) (s : State) : Out :=
  andThen (switchMode mode.bits s) fun s' => .next (enterHandler mode vector link s.cpsr s')

/-- `TakeIRQ()` (R304): the link is A + 4, A the instruction not executed. -/
def takeIrq (s : State) : Out := enterException .irq vectorIrq (s.reg pcReg) s

/-- A refill for the state that the T bit selects, the target aligned for it (R309). -/
def State.jumpByT (s : State) (target : Word) : State :=
  if psrT s.cpsr then s.jumpThumb (clearBit0 target) else s.jumpArm (clearBits10 target)

/-- `ExceptionReturn(k)` (R309), the contract that ARM-state code fulfils: `k` is 0 after SWI, 4 after IRQ. The
current mode must have an SPSR; where it has none the model stops (log 12). -/
def exceptionReturn (k : Word) (s : State) : Out :=
  match (bankOf (psrM s.cpsr)).bind s.spsr.get with
  | none => .fault .illegalMode
  | some saved =>
    let target := s.reg lrReg - k
    andThen (switchMode (psrM saved) s) fun s' => .next ((s'.setCpsr saved).jumpByT target)

/-! ## The interrupt request input (R303) -/

/-- The level of `irq_line` at this boundary; inactive when none is listed. -/
def State.irqActive (s : State) : Bool := s.irqLine.headD false

/-- The level has been sampled. -/
def State.sampled (s : State) : State := { s with irqLine := s.irqLine.tail }

/-- The interrupt is taken at this boundary: the line is active and `cpsr.I = 0` (R304). -/
def State.irqTaken (s : State) : Bool := s.irqActive && !psrI s.cpsr

/-- The line is inactive at the coming boundary. -/
def State.irqQuiet (s : State) : State :=
  match s.irqLine with
  | true :: rest => { s with irqLine := false :: rest }
  | _ => s

/-! ## Reset and start -/

/-- `Reset()` (70_reset_and_hazards.md R350); what it does not name is unspecified there and unchanged here. -/
def resetCore (s : State) : State :=
  (s.setCpsr (setPsrT false (setPsrF true (setPsrI true (setPsrM Mode.supervisor.bits s.cpsr))))).jumpArm 0

/-- `StartThumb(entry)` (R351), for an even entry. -/
def startThumb (entry : Word) (s : State) : State := (s.setCpsr (setPsrT true s.cpsr)).jumpThumb entry

/-- An opcode put where the next step takes its instruction from. In THUMB state: into the pipeline slot and into
memory at A = x[15] - 4. In ARM state: into memory at the address of the next instruction, x[15] - 8 made even, THUMB
execution started there, and the opcode into its slot, whatever answers at that address. The interrupt line is quiet
at that boundary (log 8). -/
def placeOpcode (op : Opcode) (s : State) : State :=
  let s := s.irqQuiet
  let put (a : Word) : State := { s with mem := busWrite s.mem a .half (op.setWidth 32) }
  if psrT s.cpsr then (put (s.reg pcReg - 4)).setSlot s.pipe.index (op.setWidth 32)
  else
    let a := clearBit0 (s.reg pcReg - 8)
    (startThumb a (put a)).setSlot 0 (op.setWidth 32)

end Sys2Proof.Machine
end

