-- ==== Sys2Proof/Machine/Operands.lean ====
section
/-! DEFINITION. The operand forms: immediates (30_encoding.md R112), effective addresses (44 R210), the THUMB.5 second
operand (43 R200), branch targets (47 R260 to R271) and register lists (46 R250). -/

namespace Sys2Proof.Machine

/-! ## Immediates (R112) -/

/-- A zero-extended immediate. -/
def zext {n : Nat} (imm : BitVec n) : Word := imm.setWidth 32

/-- A zero-extended immediate that counts halfwords. -/
def halves {n : Nat} (imm : BitVec n) : Word := zext imm <<< 1

/-- A zero-extended immediate that counts words. -/
def words {n : Nat} (imm : BitVec n) : Word := zext imm <<< 2

/-- A sign-extended halfword offset of a branch: `trunc32(sext(imm) << 1)`. -/
def branchOffset {n : Nat} (imm : BitVec n) : Word := imm.signExtend 32 <<< 1

/-- The offset of the first half of a BL: `sext_23(imm11 << 12)` (90_conflicts.md C9). -/
def longOffset (imm11 : BitVec 11) : Word := imm11.signExtend 32 <<< 12

/-! ## Effective addresses -/

/-- `x[Rb] + x[Ro]` (R212). -/
def addrReg (s : State) (rb ro : LowReg) : Word := s.reg (low rb) + s.reg (low ro)

/-- `x[Rb] + offset` (R220). -/
def addrImm (s : State) (rb : LowReg) (offset : Word) : Word := s.reg (low rb) + offset

/-- `(x[15] & ~2) + (imm8 << 2)` (R211, R240). -/
def addrPc (s : State) (imm8 : BitVec 8) : Word := clearBit1 (s.reg pcReg) + words imm8

/-- `x[13] + (imm8 << 2)` (R226, R241). -/
def addrSp (s : State) (imm8 : BitVec 8) : Word := s.reg spReg + words imm8

/-! ## THUMB.5 -/

/-- The second operand of THUMB.5: R15 is read with bit 0 cleared (R200). -/
def hiOperand (s : State) (rs : Reg) : Word := if rs = pcReg then clearBit0 (s.reg pcReg) else s.reg rs

/-! ## Branch targets -/

/-- `x[15] + offset` (R260, R268). -/
def branchTarget {n : Nat} (s : State) (imm : BitVec n) : Word := s.reg pcReg + branchOffset imm

/-- The target of the second half of a BL (R271). -/
def longTarget (s : State) (imm11 : BitVec 11) : Word := clearBit0 (s.reg lrReg + halves imm11)

/-! ## Register lists -/

/-- The registers of a list in ascending order (R250(a)). -/
def listRegs (rlist : BitVec 8) : List LowReg :=
  ([0, 1, 2, 3, 4, 5, 6, 7] : List LowReg).filter fun i => rlist.getLsbD i

/-- `4·n` for the n words of a transfer. -/
def wordsSize (n : Nat) : Word := BitVec.ofNat 32 (4 * n)

/-- Whether a THUMB.14 list names nothing (R252). -/
def emptyList (r : Bool) (rlist : BitVec 8) : Bool := !r && rlist == 0

/-- The words PUSH stores: the listed registers, then LR (R251). -/
def pushValues (s : State) (lr : Bool) (rlist : BitVec 8) : List Word :=
  (listRegs rlist).map (fun i => s.reg (low i)) ++ if lr then [s.reg lrReg] else []

/-- The words STMIA stores (R254): a base that is not the first register of the list is stored updated. -/
def stmiaValues (s : State) (rb : LowReg) (new : Word) : List LowReg → List Word
  | [] => []
  | i :: rest => s.reg (low i) :: rest.map fun j => if j = rb then new else s.reg (low j)

/-- Words stored upward from an address, the first with the tag given, every further one SEQ (R250(b)). -/
def storeWords : Word → SeqTag → List Word → State → State
  | _, _, [], s => s
  | a, tag, v :: vs, s => storeWords (a + 4) .seq vs (s.store a .word v tag)

/-- Registers loaded from words upward from an address, the first with the tag given, every further one SEQ. -/
def loadWords : Word → SeqTag → List LowReg → State → State
  | _, _, [], s => s
  | a, tag, r :: rs, s => loadWords (a + 4) .seq rs (s.loadReg (low r) a .word tag .plain)

end Sys2Proof.Machine
end

