-- ==== Sys2Proof/Machine/Shapes.lean ====
section
/-! DEFINITION. The shapes instructions share: a prefetch, an effect, and an advance of the PC (R125, R127). The
operands handed to a shape are read from the state before the instruction; a prefetch changes no register. -/

namespace Sys2Proof.Machine

/-! ## Data processing -/

/-- `x[Rd] <- result`, N, Z, C, V (41 R154, 42 R176). -/
def arithOp (f : ThumbFormat) (rd : LowReg) (r : Arith) (s : State) : Out :=
  .next (((s.prefetch f).setReg (low rd) r.value).setCpsr (putNZCV r s.cpsr)).advance

/-- N, Z, C, V of a result that is discarded (41 R159). -/
def compareOp (f : ThumbFormat) (r : Arith) (s : State) : Out :=
  .next ((s.prefetch f).setCpsr (putNZCV r s.cpsr)).advance

/-- `x[Rd] <- result`, N, Z and the shifter's carry-out (41 R151, 42 R173). -/
def shiftOp (f : ThumbFormat) (rd : LowReg) (r : Shifted) (s : State) : Out :=
  .next (((s.prefetch f).setReg (low rd) r.value).setCpsr (putNZC r.value r.carry s.cpsr)).advance

/-- `x[Rd] <- result`, N and Z (41 R158, 42 R171). -/
def logicOp (f : ThumbFormat) (rd : LowReg) (r : Word) (s : State) : Out :=
  .next (((s.prefetch f).setReg (low rd) r).setCpsr (putNZ r s.cpsr)).advance

/-- N and Z of a result that is discarded (42 R179). -/
def testOp (f : ThumbFormat) (r : Word) (s : State) : Out :=
  .next ((s.prefetch f).setCpsr (putNZ r s.cpsr)).advance

/-- `x[r] <- result`, no flags (45 R240). -/
def moveOp (f : ThumbFormat) (r : Reg) (v : Word) (s : State) : Out := .next ((s.prefetch f).setReg r v).advance

/-- A value written to any of R0 to R15 by THUMB.5: the PC refills with bit 0 cleared, no flags (43 R201, R203). -/
def moveHiOp (rd : Reg) (v : Word) (s : State) : Out :=
  if rd = pcReg then .next ((s.prefetch .t5).jumpThumb (clearBit0 v)) else moveOp .t5 rd v s

/-! ## Loads and stores -/

/-- The prefetch, then a load (44 R210(b)). -/
def loadOp (f : ThumbFormat) (rd : LowReg) (a : Word) (w : Width) (e : Widen) (s : State) : Out :=
  .next ((s.prefetch f).loadReg (low rd) a w .nonseq e).advance

/-- The prefetch, then a load that charges one internal cycle (44 R210(g)). -/
def loadInternalOp (f : ThumbFormat) (rd : LowReg) (a : Word) (w : Width) (e : Widen) (s : State) : Out :=
  .next (((s.prefetch f).loadReg (low rd) a w .nonseq e).emit (.internal 1)).advance

/-- The prefetch, then a store (44 R210(b)). -/
def storeOp (f : ThumbFormat) (a : Word) (w : Width) (v : Word) (s : State) : Out :=
  .next ((s.prefetch f).store a w v .nonseq).advance

/-! ## Control transfer -/

/-- The prefetch, then a branch to a target in THUMB state (47 R268). -/
def branchOp (f : ThumbFormat) (target : Word) (s : State) : Out := .next ((s.prefetch f).jumpThumb target)

/-- THUMB.16: the branch when the condition passes, else the advance (47 R260). -/
def condBranchOp (c : Cond) (imm8 : BitVec 8) (s : State) : Out :=
  if condPassed s.cpsr c then branchOp .t16 (branchTarget s imm8) s else .next (s.prefetch .t16).advance

end Sys2Proof.Machine
end

