-- ==== Sys2Proof/Machine/Alu.lean ====
section
/-! DEFINITION. THUMB.4 (42_thumb04_alu.md): `a` is the old Rd, `b` is Rs (R170). -/

namespace Sys2Proof.Machine

/-- AND Rd, Rs (R171). -/
def execAndAlu (rd rs : LowReg) (s : State) : Out :=
  logicOp .t4 rd (s.reg (low rd) &&& s.reg (low rs)) s

/-- EOR Rd, Rs (R172). -/
def execEorAlu (rd rs : LowReg) (s : State) : Out :=
  logicOp .t4 rd (s.reg (low rd) ^^^ s.reg (low rs)) s

/-- LSL Rd, Rs (R173): the amount is the low byte of Rs. -/
def execLslAlu (rd rs : LowReg) (s : State) : Out :=
  shiftOp .t4 rd (shiftReg .lsl (s.reg (low rd)) ((s.reg (low rs)).setWidth 8) (psrC s.cpsr)) s

/-- LSR Rd, Rs (R174): the amount is the low byte of Rs. -/
def execLsrAlu (rd rs : LowReg) (s : State) : Out :=
  shiftOp .t4 rd (shiftReg .lsr (s.reg (low rd)) ((s.reg (low rs)).setWidth 8) (psrC s.cpsr)) s

/-- ASR Rd, Rs (R175): the amount is the low byte of Rs. -/
def execAsrAlu (rd rs : LowReg) (s : State) : Out :=
  shiftOp .t4 rd (shiftReg .asr (s.reg (low rd)) ((s.reg (low rs)).setWidth 8) (psrC s.cpsr)) s

/-- ADC Rd, Rs (R176). -/
def execAdcAlu (rd rs : LowReg) (s : State) : Out :=
  arithOp .t4 rd (adcFlags (s.reg (low rd)) (s.reg (low rs)) (psrC s.cpsr)) s

/-- SBC Rd, Rs (R177). -/
def execSbcAlu (rd rs : LowReg) (s : State) : Out :=
  arithOp .t4 rd (sbcFlags (s.reg (low rd)) (s.reg (low rs)) (psrC s.cpsr)) s

/-- ROR Rd, Rs (R178): the amount is the low byte of Rs. -/
def execRorAlu (rd rs : LowReg) (s : State) : Out :=
  shiftOp .t4 rd (shiftReg .ror (s.reg (low rd)) ((s.reg (low rs)).setWidth 8) (psrC s.cpsr)) s

/-- TST Rd, Rs (R179). -/
def execTstAlu (rd rs : LowReg) (s : State) : Out :=
  testOp .t4 (s.reg (low rd) &&& s.reg (low rs)) s

/-- NEG Rd, Rs (R180). -/
def execNegAlu (rd rs : LowReg) (s : State) : Out :=
  arithOp .t4 rd (subFlags 0 (s.reg (low rs))) s

/-- CMP Rd, Rs (R181). -/
def execCmpAlu (rd rs : LowReg) (s : State) : Out :=
  compareOp .t4 (subFlags (s.reg (low rd)) (s.reg (low rs))) s

/-- CMN Rd, Rs (R182). -/
def execCmnAlu (rd rs : LowReg) (s : State) : Out :=
  compareOp .t4 (addFlags (s.reg (low rd)) (s.reg (low rs))) s

/-- ORR Rd, Rs (R183). -/
def execOrrAlu (rd rs : LowReg) (s : State) : Out :=
  logicOp .t4 rd (s.reg (low rd) ||| s.reg (low rs)) s

/-- MUL Rd, Rs (R184): the low 32 bits of the product; C is cleared, V kept. Its internal cycles are a free value
of the old operands (log 11). -/
def execMulAlu (rd rs : LowReg) (s : State) : Out :=
  let a := s.reg (low rd)
  let b := s.reg (low rs)
  let r := BitVec.ofNat 32 (a.toNat * b.toNat)
  .next ((((s.prefetch .t4).setReg (low rd) r).setCpsr (putNZC r false s.cpsr)).emit
    (.internal (Config.mulCycles a b))).advance

/-- BIC Rd, Rs (R185). -/
def execBicAlu (rd rs : LowReg) (s : State) : Out :=
  logicOp .t4 rd (s.reg (low rd) &&& ~~~(s.reg (low rs))) s

/-- MVN Rd, Rs (R186). -/
def execMvnAlu (rd rs : LowReg) (s : State) : Out :=
  logicOp .t4 rd (~~~(s.reg (low rs))) s

end Sys2Proof.Machine
end

