-- ==== Sys2Proof/Machine/Branch.lean ====
section
/-! DEFINITION. THUMB.16 to THUMB.19 and the reserved opcodes (47_thumb16_19_branch_swi.md). -/

namespace Sys2Proof.Machine

/-! ## THUMB.16 -/

/-- BEQ label (R260). -/
def execBeq (imm8 : BitVec 8) (s : State) : Out := condBranchOp .eq imm8 s

/-- BNE label (R260). -/
def execBne (imm8 : BitVec 8) (s : State) : Out := condBranchOp .ne imm8 s

/-- BCS label (R260). -/
def execBcs (imm8 : BitVec 8) (s : State) : Out := condBranchOp .cs imm8 s

/-- BCC label (R260). -/
def execBcc (imm8 : BitVec 8) (s : State) : Out := condBranchOp .cc imm8 s

/-- BMI label (R260). -/
def execBmi (imm8 : BitVec 8) (s : State) : Out := condBranchOp .mi imm8 s

/-- BPL label (R260). -/
def execBpl (imm8 : BitVec 8) (s : State) : Out := condBranchOp .pl imm8 s

/-- BVS label (R260). -/
def execBvs (imm8 : BitVec 8) (s : State) : Out := condBranchOp .vs imm8 s

/-- BVC label (R260). -/
def execBvc (imm8 : BitVec 8) (s : State) : Out := condBranchOp .vc imm8 s

/-- BHI label (R260). -/
def execBhi (imm8 : BitVec 8) (s : State) : Out := condBranchOp .hi imm8 s

/-- BLS label (R260). -/
def execBls (imm8 : BitVec 8) (s : State) : Out := condBranchOp .ls imm8 s

/-- BGE label (R260). -/
def execBge (imm8 : BitVec 8) (s : State) : Out := condBranchOp .ge imm8 s

/-- BLT label (R260). -/
def execBlt (imm8 : BitVec 8) (s : State) : Out := condBranchOp .lt imm8 s

/-- BGT label (R260). -/
def execBgt (imm8 : BitVec 8) (s : State) : Out := condBranchOp .gt imm8 s

/-- BLE label (R260). -/
def execBle (imm8 : BitVec 8) (s : State) : Out := condBranchOp .le imm8 s

/-- BAL label (R261, cond 14). -/
def execBal (imm8 : BitVec 8) (s : State) : Out := condBranchOp .al imm8 s

/-! ## THUMB.17 -/

/-- SWI (R265, R302): the link is A + 2. The comment is ignored by the hardware. -/
def execSwi (_comment : BitVec 8) (s : State) : Out :=
  enterException .supervisor vectorSwi (s.reg pcReg - 2) (s.prefetch .t17)

/-! ## THUMB.18 and THUMB.19 -/

/-- B label (R268). -/
def execB (imm11 : BitVec 11) (s : State) : Out := branchOp .t18 (branchTarget s imm11) s

/-- BL, first half (R270). -/
def execBlHi (imm11 : BitVec 11) (s : State) : Out := moveOp .t19 lrReg (s.reg pcReg + longOffset imm11) s

/-- BL, second half (R271): the old LR gives the target, then LR is A + 2 with bit 0 set. -/
def execBlLo (imm11 : BitVec 11) (s : State) : Out :=
  .next (((s.prefetch .t19).setReg lrReg ((s.reg pcReg - 2) ||| 1)).jumpThumb (longTarget s imm11))

/-! ## Opcodes no format claims -/

/-- A reserved opcode (R275): no prefetch, no bus access, no next state. -/
def execReserved (_op : Opcode) (_s : State) : Out := .fault .reservedEncoding

end Sys2Proof.Machine
end

