-- ==== Sys2Proof/Machine/HiReg.lean ====
section
/-! DEFINITION. THUMB.5 (43_thumb05_hireg_bx.md). -/

namespace Sys2Proof.Machine

/-- ADD Rd, Rs over R0 to R15 (R201): no flags. -/
def execAddHi (rd rs : Reg) (s : State) : Out := moveHiOp rd (s.reg rd + hiOperand s rs) s

/-- CMP Rd, Rs over R0 to R15 (R202). -/
def execCmpHi (rd rs : Reg) (s : State) : Out := compareOp .t5 (subFlags (s.reg rd) (hiOperand s rs)) s

/-- MOV Rd, Rs over R0 to R15 (R203): no flags. -/
def execMovHi (rd rs : Reg) (s : State) : Out := moveHiOp rd (hiOperand s rs) s

/-- BX Rs (R204): bit 0 of the operand selects the state. op[7] and op[2:0] are ignored (R117). -/
def execBx (rs : Reg) (_h1 : BitVec 1) (_rdBits : BitVec 3) (s : State) : Out :=
  let b := hiOperand s rs
  if b.getLsbD 0 then .next ((s.prefetch .t5).jumpThumb (clearBit0 b))
  else .next (((s.prefetch .t5).setCpsr (setPsrT false s.cpsr)).jumpArm (clearBits10 b))

end Sys2Proof.Machine
end

