-- ==== Sys2Proof/Machine/LoadStore.lean ====
section
/-! DEFINITION. THUMB.6 to THUMB.11 (44_thumb06_11_load_store.md), THUMB.12 and THUMB.13
(45_thumb12_13_address_sp.md). -/

namespace Sys2Proof.Machine

/-! ## THUMB.6 -/

/-- LDR Rd, [PC, #imm8*4] (R211). -/
def execLdrPc (rd : LowReg) (imm8 : BitVec 8) (s : State) : Out :=
  loadInternalOp .t6 rd (addrPc s imm8) .word .rotate s

/-! ## THUMB.7 and THUMB.8 -/

/-- STR Rd, [Rb, Ro] (R212). -/
def execStrRo (rd rb ro : LowReg) (s : State) : Out :=
  storeOp .t7 (addrReg s rb ro) .word (s.reg (low rd)) s

/-- STRB Rd, [Rb, Ro] (R213). -/
def execStrbRo (rd rb ro : LowReg) (s : State) : Out :=
  storeOp .t7 (addrReg s rb ro) .byte (s.reg (low rd)) s

/-- LDR Rd, [Rb, Ro] (R214). -/
def execLdrRo (rd rb ro : LowReg) (s : State) : Out :=
  loadInternalOp .t7 rd (addrReg s rb ro) .word .rotate s

/-- LDRB Rd, [Rb, Ro] (R215). -/
def execLdrbRo (rd rb ro : LowReg) (s : State) : Out :=
  loadInternalOp .t7 rd (addrReg s rb ro) .byte .plain s

/-- STRH Rd, [Rb, Ro] (R216). -/
def execStrhRo (rd rb ro : LowReg) (s : State) : Out :=
  storeOp .t8 (addrReg s rb ro) .half (s.reg (low rd)) s

/-- LDSB Rd, [Rb, Ro] (R217). -/
def execLdsbRo (rd rb ro : LowReg) (s : State) : Out :=
  loadInternalOp .t8 rd (addrReg s rb ro) .byte .signed s

/-- LDRH Rd, [Rb, Ro] (R218). -/
def execLdrhRo (rd rb ro : LowReg) (s : State) : Out :=
  loadInternalOp .t8 rd (addrReg s rb ro) .half .rotate s

/-- LDSH Rd, [Rb, Ro] (R219). -/
def execLdshRo (rd rb ro : LowReg) (s : State) : Out :=
  loadInternalOp .t8 rd (addrReg s rb ro) .half .signed s

/-! ## THUMB.9 and THUMB.10 -/

/-- STR Rd, [Rb, #imm5*4] (R220). -/
def execStrImm (rd rb : LowReg) (imm5 : BitVec 5) (s : State) : Out :=
  storeOp .t9 (addrImm s rb (words imm5)) .word (s.reg (low rd)) s

/-- LDR Rd, [Rb, #imm5*4] (R221). -/
def execLdrImm (rd rb : LowReg) (imm5 : BitVec 5) (s : State) : Out :=
  loadOp .t9 rd (addrImm s rb (words imm5)) .word .rotate s

/-- STRB Rd, [Rb, #imm5] (R222). -/
def execStrbImm (rd rb : LowReg) (imm5 : BitVec 5) (s : State) : Out :=
  storeOp .t9 (addrImm s rb (zext imm5)) .byte (s.reg (low rd)) s

/-- LDRB Rd, [Rb, #imm5] (R223). -/
def execLdrbImm (rd rb : LowReg) (imm5 : BitVec 5) (s : State) : Out :=
  loadOp .t9 rd (addrImm s rb (zext imm5)) .byte .plain s

/-- STRH Rd, [Rb, #imm5*2] (R224). -/
def execStrhImm (rd rb : LowReg) (imm5 : BitVec 5) (s : State) : Out :=
  storeOp .t10 (addrImm s rb (halves imm5)) .half (s.reg (low rd)) s

/-- LDRH Rd, [Rb, #imm5*2] (R225). -/
def execLdrhImm (rd rb : LowReg) (imm5 : BitVec 5) (s : State) : Out :=
  loadOp .t10 rd (addrImm s rb (halves imm5)) .half .rotate s

/-! ## THUMB.11: the data access precedes the prefetch (R210(b)) -/

/-- STR Rd, [SP, #imm8*4] (R226). -/
def execStrSp (rd : LowReg) (imm8 : BitVec 8) (s : State) : Out :=
  .next ((s.store (addrSp s imm8) .word (s.reg (low rd)) .nonseq).prefetch .t11).advance

/-- LDR Rd, [SP, #imm8*4] (R227). -/
def execLdrSp (rd : LowReg) (imm8 : BitVec 8) (s : State) : Out :=
  .next ((s.loadReg (low rd) (addrSp s imm8) .word .nonseq .rotate).prefetch .t11).advance

/-! ## THUMB.12 and THUMB.13: no flags -/

/-- ADD Rd, PC, #imm8*4 (R240). -/
def execAddPc (rd : LowReg) (imm8 : BitVec 8) (s : State) : Out :=
  moveOp .t12 (low rd) (addrPc s imm8) s

/-- ADD Rd, SP, #imm8*4 (R241). -/
def execAddSp (rd : LowReg) (imm8 : BitVec 8) (s : State) : Out :=
  moveOp .t12 (low rd) (addrSp s imm8) s

/-- ADD SP, #imm7*4 (R242). -/
def execIncSp (imm7 : BitVec 7) (s : State) : Out :=
  moveOp .t13 spReg (s.reg spReg + words imm7) s

/-- ADD SP, #-imm7*4 (R243). -/
def execDecSp (imm7 : BitVec 7) (s : State) : Out :=
  moveOp .t13 spReg (s.reg spReg - words imm7) s

end Sys2Proof.Machine
end

