-- ==== Sys2Proof/Machine/Multiple.lean ====
section
/-! DEFINITION. THUMB.14 and THUMB.15 (46_thumb14_15_multiple.md). -/

namespace Sys2Proof.Machine

/-- PUSH {rlist[, LR]} (R251); an empty list faults (R252). -/
def execPush (lr : Bool) (rlist : BitVec 8) (s : State) : Out :=
  if emptyList lr rlist then .fault .emptyRegisterList
  else
    let values := pushValues s lr rlist
    let a := s.reg spReg - wordsSize values.length
    .next (storeWords a .nonseq values ((s.prefetch .t14).setReg spReg a)).advance

/-- POP {rlist[, PC]} (R253); an empty list faults (R252). The PC's word is the first transfer of an empty rlist. -/
def execPop (pc : Bool) (rlist : BitVec 8) (s : State) : Out :=
  if emptyList pc rlist then .fault .emptyRegisterList
  else
    let regs := listRegs rlist
    let base := s.reg spReg
    let s' := loadWords base .nonseq regs (s.prefetch .t14)
    let a := base + wordsSize regs.length
    if pc then
      let tag := if regs.isEmpty then SeqTag.nonseq else .seq
      let t := s'.load a .word .plain
      .next (((s'.emit (.read a .word tag .plain)).setReg spReg (a + 4)).jumpThumb (clearBit0 t))
    else .next (s'.setReg spReg a).advance

/-- STMIA Rb!, {rlist} (R254); an empty list faults (R256). -/
def execStmia (rb : LowReg) (rlist : BitVec 8) (s : State) : Out :=
  if rlist = 0 then .fault .emptyRegisterList
  else
    let regs := listRegs rlist
    let base := s.reg (low rb)
    let new := base + wordsSize regs.length
    .next ((storeWords base .nonseq (stmiaValues s rb new regs) (s.prefetch .t15)).setReg (low rb) new).advance

/-- LDMIA Rb!, {rlist} (R255); an empty list faults (R256). A base in the list keeps the loaded word. -/
def execLdmia (rb : LowReg) (rlist : BitVec 8) (s : State) : Out :=
  if rlist = 0 then .fault .emptyRegisterList
  else
    let regs := listRegs rlist
    let base := s.reg (low rb)
    let s' := loadWords base .nonseq regs (s.prefetch .t15)
    if rlist.getLsbD rb then .next s'.advance
    else .next (s'.setReg (low rb) (base + wordsSize regs.length)).advance

end Sys2Proof.Machine
end

