-- ==== Sys2Proof/Machine/ShiftAddSub.lean ====
section
/-! DEFINITION. THUMB.1 to THUMB.3 (41_thumb01_03_shift_addsub_imm.md). -/

namespace Sys2Proof.Machine

/-- LSL Rd, Rs, #imm5 (R151). -/
def execLslImm (rd rs : LowReg) (imm5 : BitVec 5) (s : State) : Out :=
  shiftOp .t1 rd (shiftImm .lsl (s.reg (low rs)) imm5 (psrC s.cpsr)) s

/-- LSR Rd, Rs, #imm5 (R152). -/
def execLsrImm (rd rs : LowReg) (imm5 : BitVec 5) (s : State) : Out :=
  shiftOp .t1 rd (shiftImm .lsr (s.reg (low rs)) imm5 (psrC s.cpsr)) s

/-- ASR Rd, Rs, #imm5 (R153). -/
def execAsrImm (rd rs : LowReg) (imm5 : BitVec 5) (s : State) : Out :=
  shiftOp .t1 rd (shiftImm .asr (s.reg (low rs)) imm5 (psrC s.cpsr)) s

/-- ADD Rd, Rs, Rn (R154). -/
def execAddReg (rd rs rn : LowReg) (s : State) : Out :=
  arithOp .t2 rd (addFlags (s.reg (low rs)) (s.reg (low rn))) s

/-- SUB Rd, Rs, Rn (R155). -/
def execSubReg (rd rs rn : LowReg) (s : State) : Out :=
  arithOp .t2 rd (subFlags (s.reg (low rs)) (s.reg (low rn))) s

/-- ADD Rd, Rs, #imm3 (R156). -/
def execAddImm3 (rd rs : LowReg) (imm3 : BitVec 3) (s : State) : Out :=
  arithOp .t2 rd (addFlags (s.reg (low rs)) (zext imm3)) s

/-- SUB Rd, Rs, #imm3 (R157). -/
def execSubImm3 (rd rs : LowReg) (imm3 : BitVec 3) (s : State) : Out :=
  arithOp .t2 rd (subFlags (s.reg (low rs)) (zext imm3)) s

/-- MOV Rd, #imm8 (R158): N and Z from the immediate, C and V kept. -/
def execMovImm8 (rd : LowReg) (imm8 : BitVec 8) (s : State) : Out := logicOp .t3 rd (zext imm8) s

/-- CMP Rd, #imm8 (R159). -/
def execCmpImm8 (rd : LowReg) (imm8 : BitVec 8) (s : State) : Out :=
  compareOp .t3 (subFlags (s.reg (low rd)) (zext imm8)) s

/-- ADD Rd, #imm8 (R160). -/
def execAddImm8 (rd : LowReg) (imm8 : BitVec 8) (s : State) : Out :=
  arithOp .t3 rd (addFlags (s.reg (low rd)) (zext imm8)) s

/-- SUB Rd, #imm8 (R161). -/
def execSubImm8 (rd : LowReg) (imm8 : BitVec 8) (s : State) : Out :=
  arithOp .t3 rd (subFlags (s.reg (low rd)) (zext imm8)) s

end Sys2Proof.Machine
end

