-- ==== Sys2Proof/Machine/Dispatch.lean ====
section
/-! DEFINITION. The meaning of an instruction: one arm per constructor. -/

namespace Sys2Proof.Machine

def exec (i : Instr) (s : State) : Host.Outcome State Fault Refusal :=
  match i with
  | .lslImm rd rs imm5 => Sys2Proof.Machine.execLslImm rd rs imm5 s
  | .lsrImm rd rs imm5 => Sys2Proof.Machine.execLsrImm rd rs imm5 s
  | .asrImm rd rs imm5 => Sys2Proof.Machine.execAsrImm rd rs imm5 s
  | .addReg rd rs rn => Sys2Proof.Machine.execAddReg rd rs rn s
  | .subReg rd rs rn => Sys2Proof.Machine.execSubReg rd rs rn s
  | .addImm3 rd rs imm3 => Sys2Proof.Machine.execAddImm3 rd rs imm3 s
  | .subImm3 rd rs imm3 => Sys2Proof.Machine.execSubImm3 rd rs imm3 s
  | .movImm8 rd imm8 => Sys2Proof.Machine.execMovImm8 rd imm8 s
  | .cmpImm8 rd imm8 => Sys2Proof.Machine.execCmpImm8 rd imm8 s
  | .addImm8 rd imm8 => Sys2Proof.Machine.execAddImm8 rd imm8 s
  | .subImm8 rd imm8 => Sys2Proof.Machine.execSubImm8 rd imm8 s
  | .andAlu rd rs => Sys2Proof.Machine.execAndAlu rd rs s
  | .eorAlu rd rs => Sys2Proof.Machine.execEorAlu rd rs s
  | .lslAlu rd rs => Sys2Proof.Machine.execLslAlu rd rs s
  | .lsrAlu rd rs => Sys2Proof.Machine.execLsrAlu rd rs s
  | .asrAlu rd rs => Sys2Proof.Machine.execAsrAlu rd rs s
  | .adcAlu rd rs => Sys2Proof.Machine.execAdcAlu rd rs s
  | .sbcAlu rd rs => Sys2Proof.Machine.execSbcAlu rd rs s
  | .rorAlu rd rs => Sys2Proof.Machine.execRorAlu rd rs s
  | .tstAlu rd rs => Sys2Proof.Machine.execTstAlu rd rs s
  | .negAlu rd rs => Sys2Proof.Machine.execNegAlu rd rs s
  | .cmpAlu rd rs => Sys2Proof.Machine.execCmpAlu rd rs s
  | .cmnAlu rd rs => Sys2Proof.Machine.execCmnAlu rd rs s
  | .orrAlu rd rs => Sys2Proof.Machine.execOrrAlu rd rs s
  | .mulAlu rd rs => Sys2Proof.Machine.execMulAlu rd rs s
  | .bicAlu rd rs => Sys2Proof.Machine.execBicAlu rd rs s
  | .mvnAlu rd rs => Sys2Proof.Machine.execMvnAlu rd rs s
  | .addHi rd rs => Sys2Proof.Machine.execAddHi rd rs s
  | .cmpHi rd rs => Sys2Proof.Machine.execCmpHi rd rs s
  | .movHi rd rs => Sys2Proof.Machine.execMovHi rd rs s
  | .bx rs h1 rdBits => Sys2Proof.Machine.execBx rs h1 rdBits s
  | .ldrPc rd imm8 => Sys2Proof.Machine.execLdrPc rd imm8 s
  | .strRo rd rb ro => Sys2Proof.Machine.execStrRo rd rb ro s
  | .strbRo rd rb ro => Sys2Proof.Machine.execStrbRo rd rb ro s
  | .ldrRo rd rb ro => Sys2Proof.Machine.execLdrRo rd rb ro s
  | .ldrbRo rd rb ro => Sys2Proof.Machine.execLdrbRo rd rb ro s
  | .strhRo rd rb ro => Sys2Proof.Machine.execStrhRo rd rb ro s
  | .ldsbRo rd rb ro => Sys2Proof.Machine.execLdsbRo rd rb ro s
  | .ldrhRo rd rb ro => Sys2Proof.Machine.execLdrhRo rd rb ro s
  | .ldshRo rd rb ro => Sys2Proof.Machine.execLdshRo rd rb ro s
  | .strImm rd rb imm5 => Sys2Proof.Machine.execStrImm rd rb imm5 s
  | .ldrImm rd rb imm5 => Sys2Proof.Machine.execLdrImm rd rb imm5 s
  | .strbImm rd rb imm5 => Sys2Proof.Machine.execStrbImm rd rb imm5 s
  | .ldrbImm rd rb imm5 => Sys2Proof.Machine.execLdrbImm rd rb imm5 s
  | .strhImm rd rb imm5 => Sys2Proof.Machine.execStrhImm rd rb imm5 s
  | .ldrhImm rd rb imm5 => Sys2Proof.Machine.execLdrhImm rd rb imm5 s
  | .strSp rd imm8 => Sys2Proof.Machine.execStrSp rd imm8 s
  | .ldrSp rd imm8 => Sys2Proof.Machine.execLdrSp rd imm8 s
  | .addPc rd imm8 => Sys2Proof.Machine.execAddPc rd imm8 s
  | .addSp rd imm8 => Sys2Proof.Machine.execAddSp rd imm8 s
  | .incSp imm7 => Sys2Proof.Machine.execIncSp imm7 s
  | .decSp imm7 => Sys2Proof.Machine.execDecSp imm7 s
  | .push lr rlist => Sys2Proof.Machine.execPush lr rlist s
  | .pop pc rlist => Sys2Proof.Machine.execPop pc rlist s
  | .stmia rb rlist => Sys2Proof.Machine.execStmia rb rlist s
  | .ldmia rb rlist => Sys2Proof.Machine.execLdmia rb rlist s
  | .beq imm8 => Sys2Proof.Machine.execBeq imm8 s
  | .bne imm8 => Sys2Proof.Machine.execBne imm8 s
  | .bcs imm8 => Sys2Proof.Machine.execBcs imm8 s
  | .bcc imm8 => Sys2Proof.Machine.execBcc imm8 s
  | .bmi imm8 => Sys2Proof.Machine.execBmi imm8 s
  | .bpl imm8 => Sys2Proof.Machine.execBpl imm8 s
  | .bvs imm8 => Sys2Proof.Machine.execBvs imm8 s
  | .bvc imm8 => Sys2Proof.Machine.execBvc imm8 s
  | .bhi imm8 => Sys2Proof.Machine.execBhi imm8 s
  | .bls imm8 => Sys2Proof.Machine.execBls imm8 s
  | .bge imm8 => Sys2Proof.Machine.execBge imm8 s
  | .blt imm8 => Sys2Proof.Machine.execBlt imm8 s
  | .bgt imm8 => Sys2Proof.Machine.execBgt imm8 s
  | .ble imm8 => Sys2Proof.Machine.execBle imm8 s
  | .bal imm8 => Sys2Proof.Machine.execBal imm8 s
  | .swi comment => Sys2Proof.Machine.execSwi comment s
  | .b imm11 => Sys2Proof.Machine.execB imm11 s
  | .blHi imm11 => Sys2Proof.Machine.execBlHi imm11 s
  | .blLo imm11 => Sys2Proof.Machine.execBlLo imm11 s
  | .reserved op => Sys2Proof.Machine.execReserved op s

end Sys2Proof.Machine
end

