-- ==== Sys2Proof/Machine/Step.lean ====
section
/-! DEFINITION. One step of the core (40_pipeline_shifter_flags.md R126). -/

namespace Sys2Proof.Machine

/-- `Step()` (R126): in ARM state the block has no step (00_scope.md R12); otherwise the interrupt line is sampled, and
either the interrupt is taken or the opcode in the pipeline is decoded and executed. `LeaveThumb(s')` is the next
state s' with `cpsr.T = 0` (log 7). -/
def step (s : State) : Host.Outcome State Fault Refusal :=
  if psrT s.cpsr then
    if s.irqTaken then takeIrq s.sampled else exec (decodeOp s.nextOpcode) s.sampled
  else .refused .armState

/-- The state whose next step fetches and runs exactly the opcode-table word `w` of `nbits` bits (log 8). -/
def State.withFetchWord (s : State) (nbits w : Nat) : State := placeOpcode (BitVec.ofNat 16 (w % 2 ^ nbits)) s

end Sys2Proof.Machine
end

