-- ==== Sys2Proof/Machine/Ppu.lean ====
section
/-! DEFINITION. The PPU register block (60_exceptions.md R330 to R339), the one platform device the spec describes:
a device of its own, not part of the core's state and not connected to its memory (00_scope.md R4, log 14). Each
register is a record with Reset, Read(byteIndex) and Write(byteIndex, v); an unknown byte index writes nothing and
reads 0 (R330(d)). -/

namespace Sys2Proof.Machine

/-! ## Registers of plain bytes (R332, R334, R337, R338) -/

/-- A two-byte register whose writable bits latch and whose other bits read 0. -/
structure ByteReg where
  byte0 : Byte
  byte1 : Byte
deriving DecidableEq, Repr

/-- The writable masks of a two-byte register (R330(c)). -/
structure ByteMasks where
  mask0 : Byte
  mask1 : Byte
deriving DecidableEq, Repr

/-- `Reset()`. -/
def ByteReg.reset : ByteReg := ⟨0, 0⟩

/-- `Read(i)`. -/
def ByteReg.readByte (r : ByteReg) : Nat → Byte
  | 0 => r.byte0
  | 1 => r.byte1
  | _ => 0

/-- `Write(i, v)`. -/
def ByteReg.writeByte (m : ByteMasks) (r : ByteReg) : Nat → Byte → ByteReg
  | 0, v => { r with byte0 := v &&& m.mask0 }
  | 1, v => { r with byte1 := v &&& m.mask1 }
  | _, _ => r

/-- DISPCNT: mode, cgb_mode, frame, hblank_oam, obj_mapping_1d, forced_blank; eight layer enables (R332). -/
def masksDispcnt : ByteMasks := ⟨0xFF, 0xFF⟩

/-- BGxCNT: priority, tile_block, two zero bits, mosaic, full_palette; map_block, wraparound, size (R334). -/
def masksBgcnt : ByteMasks := ⟨0xCF, 0xFF⟩

/-- WININ and WINOUT: six layer enables in each byte (R337). -/
def masksWindow : ByteMasks := ⟨0x3F, 0x3F⟩

/-- BLDCNT: six first targets and the effect selector; six second targets (R338, 90_conflicts.md C6). -/
def masksBldcnt : ByteMasks := ⟨0xFF, 0x3F⟩

/-! ## DISPSTAT (R333) -/

/-- Three status flags that the rasterizer writes, three interrupt enables, and the vcount setting. -/
structure Dispstat where
  flags : BitVec 3
  enables : BitVec 3
  vcountSetting : Byte
deriving DecidableEq, Repr

/-- `Reset()`. -/
def Dispstat.reset : Dispstat := ⟨0, 0, 0⟩

/-- `Read(i)`: the flags in bits 2:0 and the enables in bits 5:3 of byte 0. -/
def Dispstat.readByte (r : Dispstat) : Nat → Byte
  | 0 => 0#2 ++ r.enables ++ r.flags
  | 1 => r.vcountSetting
  | _ => 0

/-- `Write(i, v)`: byte 0 writes the enables only. -/
def Dispstat.writeByte (r : Dispstat) : Nat → Byte → Dispstat
  | 0, v => { r with enables := v.extractLsb' 3 3 }
  | 1, v => { r with vcountSetting := v }
  | _, _ => r

/-! ## Reference points BGxX, BGxY (R335) -/

/-- The bytes written and the sign-extended shadow. -/
structure RefPoint where
  initial : Word
  current : Word
deriving DecidableEq, Repr

/-- `Reset()`. -/
def RefPoint.reset : RefPoint := ⟨0, 0⟩

/-- `sext_28`. -/
def sext28 (v : Word) : Word := (v.setWidth 28).signExtend 32

/-- Byte `i` of a word replaced. -/
def putByte (w : Word) (i : Fin 4) (v : Byte) : Word :=
  (w &&& ~~~(0xFF#32 <<< (8 * i.val))) ||| (v.setWidth 32 <<< (8 * i.val))

/-- `Read(i)`: byte `i` of `initial` (DEDUCED from the round trip, log 14). -/
def RefPoint.readByte (r : RefPoint) (i : Nat) : Byte := if i < 4 then r.initial.extractLsb' (8 * i) 8 else 0

/-- `Write(i, v)`: every byte written re-latches the shadow. -/
def RefPoint.writeByte (r : RefPoint) (i : Nat) (v : Byte) : RefPoint :=
  if h : i < 4 then
    let w := putByte r.initial ⟨i, h⟩ v
    ⟨w, sext28 w⟩
  else r

/-! ## Window ranges WINxH, WINxV (R336) -/

/-- The two bounds and the flag that a bound has changed. -/
structure WinRange where
  max : Byte
  min : Byte
  changed : Bool
deriving DecidableEq, Repr

/-- `Reset()`. -/
def WinRange.reset : WinRange := ⟨0, 0, false⟩

/-- `Read(i)`. -/
def WinRange.readByte (r : WinRange) : Nat → Byte
  | 0 => r.max
  | 1 => r.min
  | _ => 0

/-- `Write(i, v)`: a bound that differs sets the flag, an equal one leaves it. -/
def WinRange.writeByte (r : WinRange) : Nat → Byte → WinRange
  | 0, v => { r with max := v, changed := r.changed || v != r.max }
  | 1, v => { r with min := v, changed := r.changed || v != r.min }
  | _, _ => r

/-! ## The block -/

/-- The registers of the block. How many instances BGxCNT, the reference points and the windows have is the
platform's (R331); the family's four, four and two stand here (PRESUMED, log 14). -/
structure Ppu where
  dispcnt : ByteReg
  dispstat : Dispstat
  bgcnt : Vector ByteReg 4
  refPoint : Vector RefPoint 4
  winH : Vector WinRange 2
  winV : Vector WinRange 2
  winin : ByteReg
  winout : ByteReg
  bldcnt : ByteReg
deriving DecidableEq, Repr

/-- Every field, shadow and flag is 0 after `Reset()` (R330(e)). -/
def Ppu.reset : Ppu where
  dispcnt := ByteReg.reset
  dispstat := Dispstat.reset
  bgcnt := Vector.replicate 4 ByteReg.reset
  refPoint := Vector.replicate 4 RefPoint.reset
  winH := Vector.replicate 2 WinRange.reset
  winV := Vector.replicate 2 WinRange.reset
  winin := ByteReg.reset
  winout := ByteReg.reset
  bldcnt := ByteReg.reset

/-- The registers by name. -/
inductive PpuReg
  | dispcnt | dispstat | bgcnt (n : Fin 4) | refPoint (n : Fin 4) | winH (n : Fin 2) | winV (n : Fin 2)
  | winin | winout | bldcnt
deriving DecidableEq, Repr

/-- The number of bytes of a register. -/
def PpuReg.size : PpuReg → Nat
  | .refPoint _ => 4
  | .dispcnt | .dispstat | .bgcnt _ | .winH _ | .winV _ | .winin | .winout | .bldcnt => 2

/-- `Read(i)` of a register of the block. -/
def Ppu.readByte (p : Ppu) (i : Nat) : PpuReg → Byte
  | .dispcnt => p.dispcnt.readByte i
  | .dispstat => p.dispstat.readByte i
  | .bgcnt n => (p.bgcnt.get n).readByte i
  | .refPoint n => (p.refPoint.get n).readByte i
  | .winH n => (p.winH.get n).readByte i
  | .winV n => (p.winV.get n).readByte i
  | .winin => p.winin.readByte i
  | .winout => p.winout.readByte i
  | .bldcnt => p.bldcnt.readByte i

/-- `Write(i, v)` of a register of the block. -/
def Ppu.writeByte (p : Ppu) (i : Nat) (v : Byte) : PpuReg → Ppu
  | .dispcnt => { p with dispcnt := p.dispcnt.writeByte masksDispcnt i v }
  | .dispstat => { p with dispstat := p.dispstat.writeByte i v }
  | .bgcnt n => { p with bgcnt := p.bgcnt.set n ((p.bgcnt.get n).writeByte masksBgcnt i v) }
  | .refPoint n => { p with refPoint := p.refPoint.set n ((p.refPoint.get n).writeByte i v) }
  | .winH n => { p with winH := p.winH.set n ((p.winH.get n).writeByte i v) }
  | .winV n => { p with winV := p.winV.set n ((p.winV.get n).writeByte i v) }
  | .winin => { p with winin := p.winin.writeByte masksWindow i v }
  | .winout => { p with winout := p.winout.writeByte masksWindow i v }
  | .bldcnt => { p with bldcnt := p.bldcnt.writeByte masksBldcnt i v }

end Sys2Proof.Machine
end

