-- ==== Sys2Proof/Safety.lean ====
section
/-! DEFINITION. The terms in which claims about the core are stated: what an instruction's effect leaves alone
(frames), how the pipeline ends (40_pipeline_shifter_flags.md R125), the bus events, the classes of instructions, and
the invariant of a run (10_state.md R31, R33, R35). -/

namespace Sys2Proof.Machine

/-! ## Encodings -/

/-- An opcode is decoded to an instruction and is its encoding. -/
def Encodes (op : Opcode) (i : Instr) : Prop := decodeOp op = i ∧ encodeOp i = op

/-! ## Frames -/

/-- The numbers of the flag bits of the CPSR (10_state.md R27). -/
abbrev bitN : Nat := 31
abbrev bitZ : Nat := 30
abbrev bitC : Nat := 29
abbrev bitV : Nat := 28

/-- From `s` to `t`, every register but those of `regs`, every CPSR bit but those of `bits`, every banked register
slot, every SPSR, the map of the bus and the interrupt input are unchanged, and the bus events are exactly `events`. -/
structure Frame (regs : List Reg) (bits : List Nat) (events : List BusEvent) (s t : State) : Prop where
  otherRegs : ∀ r, r ∉ regs → t.reg r = s.reg r
  otherBits : ∀ i, i ∉ bits → t.cpsr.getLsbD i = s.cpsr.getLsbD i
  bank : t.bank = s.bank
  spsr : t.spsr = s.spsr
  regions : t.regions = s.regions
  irqLine : t.irqLine = s.irqLine
  trace : t.trace = s.trace ++ events

/-- Every byte of memory reads as before. -/
def SameMemory (s t : State) : Prop := ∀ k, t.mem.read k = s.mem.read k

/-- Where the address is read-write memory, the bytes of an access of a width hold the low bytes of `v`, low byte
first, and every other byte of memory reads as before; elsewhere every byte of memory does (20_memory.md R71;
the kinds of address and that nothing else changes memory are the model's, log 5). -/
structure Stored (a : Word) (w : Width) (v : Word) (s t : State) : Prop where
  stored : s.kindAt a = .ram → ∀ i, i < w.bytes → t.mem.read ((w.align a).toNat + i) = v.extractLsb' (8 * i) 8
  others : ∀ k, (s.kindAt a = .ram → ∀ i, i < w.bytes → k ≠ (w.align a).toNat + i) → t.mem.read k = s.mem.read k

/-! ## How an instruction ends (R125) -/

/-- What a halfword fetch at an address gives, the bus being as it is in `s` (R120, R122). -/
def fetchedHalf (s : State) (a : Word) : Word := s.load a .half .plain

/-- What a word fetch gives (R123). -/
def fetchedWord (s : State) (a : Word) : Word := s.load a .word .plain

/-- A prefetch, the bus being as it is in `b`, and the PC advanced (R120, R121). -/
structure Advances (b s t : State) : Prop where
  pc : t.reg pcReg = s.reg pcReg + 2
  index : t.pipe.index = s.pipe.index + 1
  fetched : t.pipe.opcode.get (s.pipe.index + 2) = fetchedHalf b (s.reg pcReg)
  kept : ∀ k, k ≠ s.pipe.index + 2 → t.pipe.opcode.get k = s.pipe.opcode.get k

/-- What the third slot holds when a prefetch has been made before a refill. -/
def deadSlot (s : State) : Word :=
  if s.pipe.index = 0 then fetchedHalf s (s.reg pcReg) else s.pipe.opcode.get 2

/-- The pipeline refilled at a THUMB target, the bus being as it is in `b` before the two fetches (R122). -/
structure RefillsThumb (target dead : Word) (b t : State) : Prop where
  pc : t.reg pcReg = target + 4
  index : t.pipe.index = 0
  first : t.pipe.opcode.get 0 = fetchedHalf b target
  second : t.pipe.opcode.get 1 = fetchedHalf (b.after [.read target .half .nonseq .plain]) (target + 2)
  third : t.pipe.opcode.get 2 = dead

/-- The pipeline refilled at an ARM target, the bus being as it is in `b` before the two fetches (R123). -/
structure RefillsArm (target dead : Word) (b t : State) : Prop where
  pc : t.reg pcReg = target + 8
  index : t.pipe.index = 0
  first : t.pipe.opcode.get 0 = fetchedWord b target
  second : t.pipe.opcode.get 1 = fetchedWord (b.after [.read target .word .nonseq .plain]) (target + 4)
  third : t.pipe.opcode.get 2 = dead

/-! ## Bus events -/

/-- The opcode read of A + 4 (R120, R124). -/
def prefetchEvent (f : ThumbFormat) (s : State) : BusEvent :=
  .read (s.reg pcReg) .half (Config.prefetchAcc f) .plain

/-- The two fetches of REFILL_T. -/
def refillThumbEvents (target : Word) : List BusEvent :=
  [.read target .half .nonseq .plain, .read (target + 2) .half .seq .plain]

/-- The two fetches of REFILL_A. -/
def refillArmEvents (target : Word) : List BusEvent :=
  [.read target .word .nonseq .plain, .read (target + 4) .word .seq .plain]

/-- A 16-bit read that asks for neither extension nor rotation: no data access makes one (20_memory.md R72). -/
def isOpcodeRead : BusEvent → Bool
  | .read _ .half _ .plain => true
  | .read _ _ _ _ => false
  | .write _ _ _ _ => false
  | .internal _ => false

/-! ## Register-only instructions -/

/-- The frame of an instruction that makes no data access and advances: one opcode read, memory unchanged
(41 R150, 42 R170). -/
structure Quiet (f : ThumbFormat) (regs : List Reg) (bits : List Nat) (s t : State) : Prop where
  frame : Frame (pcReg :: regs) bits [prefetchEvent f s] s t
  memory : SameMemory s t
  advances : Advances s s t

/-- N and Z of a result (R135). -/
def SetsNZ (r : Word) (t : State) : Prop := psrN t.cpsr = r.getLsbD 31 ∧ psrZ t.cpsr = decide (r = 0)

/-! ## Register lists (46 R250) -/

/-- `popcount` of a register list. -/
def popcount (rlist : BitVec 8) : Nat := (List.range 8).countP fun i => rlist.getLsbD i

/-- How many registers of the list come before Ri: its place in the transfer. -/
def rank (rlist : BitVec 8) (i : LowReg) : Nat := (List.range i).countP fun j => rlist.getLsbD j

/-- The listed registers as numbers of the sixteen. -/
def listed (rlist : BitVec 8) : List Reg := ((List.finRange 8).filter fun i => rlist.getLsbD i.val).map low

/-- The running address of the k-th word from a base, modulo 2^32. -/
def wordAt (base : Word) (k : Nat) : Word := base + BitVec.ofNat 32 (4 * k)

/-- The tag of the k-th transfer. -/
def transferTag (k : Nat) : SeqTag := if k = 0 then .nonseq else .seq

/-- The events of `n` word reads upward from an address. -/
def wordReads (base : Word) (n : Nat) : List BusEvent :=
  (List.range n).map fun k => .read (wordAt base k) .word (transferTag k) .plain

/-- Every byte outside those of the `n` aligned words from `base` that are read-write memory reads as before
(log 5). -/
def SameOutsideWords (base : Word) (n : Nat) (s t : State) : Prop :=
  ∀ k, (∀ j, j < n → s.kindAt (wordAt base j) = .ram → ∀ i, i < 4 → k ≠ (clearBits10 (wordAt base j)).toNat + i) →
    t.mem.read k = s.mem.read k

/-! ## Classes of instructions -/

/-- The format of an instruction (30_encoding.md R91); a reserved opcode has none. -/
def formatOf : Instr → Option ThumbFormat
  | .lslImm _ _ _ => some .t1
  | .lsrImm _ _ _ => some .t1
  | .asrImm _ _ _ => some .t1
  | .addReg _ _ _ => some .t2
  | .subReg _ _ _ => some .t2
  | .addImm3 _ _ _ => some .t2
  | .subImm3 _ _ _ => some .t2
  | .movImm8 _ _ => some .t3
  | .cmpImm8 _ _ => some .t3
  | .addImm8 _ _ => some .t3
  | .subImm8 _ _ => some .t3
  | .andAlu _ _ => some .t4
  | .eorAlu _ _ => some .t4
  | .lslAlu _ _ => some .t4
  | .lsrAlu _ _ => some .t4
  | .asrAlu _ _ => some .t4
  | .adcAlu _ _ => some .t4
  | .sbcAlu _ _ => some .t4
  | .rorAlu _ _ => some .t4
  | .tstAlu _ _ => some .t4
  | .negAlu _ _ => some .t4
  | .cmpAlu _ _ => some .t4
  | .cmnAlu _ _ => some .t4
  | .orrAlu _ _ => some .t4
  | .mulAlu _ _ => some .t4
  | .bicAlu _ _ => some .t4
  | .mvnAlu _ _ => some .t4
  | .addHi _ _ => some .t5
  | .cmpHi _ _ => some .t5
  | .movHi _ _ => some .t5
  | .bx _ _ _ => some .t5
  | .ldrPc _ _ => some .t6
  | .strRo _ _ _ => some .t7
  | .strbRo _ _ _ => some .t7
  | .ldrRo _ _ _ => some .t7
  | .ldrbRo _ _ _ => some .t7
  | .strhRo _ _ _ => some .t8
  | .ldsbRo _ _ _ => some .t8
  | .ldrhRo _ _ _ => some .t8
  | .ldshRo _ _ _ => some .t8
  | .strImm _ _ _ => some .t9
  | .ldrImm _ _ _ => some .t9
  | .strbImm _ _ _ => some .t9
  | .ldrbImm _ _ _ => some .t9
  | .strhImm _ _ _ => some .t10
  | .ldrhImm _ _ _ => some .t10
  | .strSp _ _ => some .t11
  | .ldrSp _ _ => some .t11
  | .addPc _ _ => some .t12
  | .addSp _ _ => some .t12
  | .incSp _ => some .t13
  | .decSp _ => some .t13
  | .push _ _ => some .t14
  | .pop _ _ => some .t14
  | .stmia _ _ => some .t15
  | .ldmia _ _ => some .t15
  | .beq _ => some .t16
  | .bne _ => some .t16
  | .bcs _ => some .t16
  | .bcc _ => some .t16
  | .bmi _ => some .t16
  | .bpl _ => some .t16
  | .bvs _ => some .t16
  | .bvc _ => some .t16
  | .bhi _ => some .t16
  | .bls _ => some .t16
  | .bge _ => some .t16
  | .blt _ => some .t16
  | .bgt _ => some .t16
  | .ble _ => some .t16
  | .bal _ => some .t16
  | .swi _ => some .t17
  | .b _ => some .t18
  | .blHi _ => some .t19
  | .blLo _ => some .t19
  | .reserved _ => none

/-- The flag bits an instruction may write: the list of 10_state.md R28. -/
def flagBitsOf : Instr → List Nat
  | .lslImm _ _ _ => [bitN, bitZ, bitC]
  | .lsrImm _ _ _ => [bitN, bitZ, bitC]
  | .asrImm _ _ _ => [bitN, bitZ, bitC]
  | .addReg _ _ _ => [bitN, bitZ, bitC, bitV]
  | .subReg _ _ _ => [bitN, bitZ, bitC, bitV]
  | .addImm3 _ _ _ => [bitN, bitZ, bitC, bitV]
  | .subImm3 _ _ _ => [bitN, bitZ, bitC, bitV]
  | .movImm8 _ _ => [bitN, bitZ]
  | .cmpImm8 _ _ => [bitN, bitZ, bitC, bitV]
  | .addImm8 _ _ => [bitN, bitZ, bitC, bitV]
  | .subImm8 _ _ => [bitN, bitZ, bitC, bitV]
  | .andAlu _ _ => [bitN, bitZ]
  | .eorAlu _ _ => [bitN, bitZ]
  | .lslAlu _ _ => [bitN, bitZ, bitC]
  | .lsrAlu _ _ => [bitN, bitZ, bitC]
  | .asrAlu _ _ => [bitN, bitZ, bitC]
  | .adcAlu _ _ => [bitN, bitZ, bitC, bitV]
  | .sbcAlu _ _ => [bitN, bitZ, bitC, bitV]
  | .rorAlu _ _ => [bitN, bitZ, bitC]
  | .tstAlu _ _ => [bitN, bitZ]
  | .negAlu _ _ => [bitN, bitZ, bitC, bitV]
  | .cmpAlu _ _ => [bitN, bitZ, bitC, bitV]
  | .cmnAlu _ _ => [bitN, bitZ, bitC, bitV]
  | .orrAlu _ _ => [bitN, bitZ]
  | .mulAlu _ _ => [bitN, bitZ, bitC]
  | .bicAlu _ _ => [bitN, bitZ]
  | .mvnAlu _ _ => [bitN, bitZ]
  | .addHi _ _ => []
  | .cmpHi _ _ => [bitN, bitZ, bitC, bitV]
  | .movHi _ _ => []
  | .bx _ _ _ => []
  | .ldrPc _ _ => []
  | .strRo _ _ _ => []
  | .strbRo _ _ _ => []
  | .ldrRo _ _ _ => []
  | .ldrbRo _ _ _ => []
  | .strhRo _ _ _ => []
  | .ldsbRo _ _ _ => []
  | .ldrhRo _ _ _ => []
  | .ldshRo _ _ _ => []
  | .strImm _ _ _ => []
  | .ldrImm _ _ _ => []
  | .strbImm _ _ _ => []
  | .ldrbImm _ _ _ => []
  | .strhImm _ _ _ => []
  | .ldrhImm _ _ _ => []
  | .strSp _ _ => []
  | .ldrSp _ _ => []
  | .addPc _ _ => []
  | .addSp _ _ => []
  | .incSp _ => []
  | .decSp _ => []
  | .push _ _ => []
  | .pop _ _ => []
  | .stmia _ _ => []
  | .ldmia _ _ => []
  | .beq _ => []
  | .bne _ => []
  | .bcs _ => []
  | .bcc _ => []
  | .bmi _ => []
  | .bpl _ => []
  | .bvs _ => []
  | .bvc _ => []
  | .bhi _ => []
  | .bls _ => []
  | .bge _ => []
  | .blt _ => []
  | .bgt _ => []
  | .ble _ => []
  | .bal _ => []
  | .swi _ => []
  | .b _ => []
  | .blHi _ => []
  | .blLo _ => []
  | .reserved _ => []

/-- The format that the value of op[15:8], and op[9] inside 0x50 to 0x5F, select: the table of 30_encoding.md R91. -/
def formatOfRange (op : Opcode) : Option ThumbFormat :=
  let top := (op.extractLsb' 8 8).toNat
  if top ≤ 0x17 then some .t1
  else if top ≤ 0x1F then some .t2
  else if top ≤ 0x3F then some .t3
  else if top ≤ 0x43 then some .t4
  else if top ≤ 0x47 then some .t5
  else if top ≤ 0x4F then some .t6
  else if top ≤ 0x5F then if op.getLsbD 9 then some .t8 else some .t7
  else if top ≤ 0x7F then some .t9
  else if top ≤ 0x8F then some .t10
  else if top ≤ 0x9F then some .t11
  else if top ≤ 0xAF then some .t12
  else if top = 0xB0 then some .t13
  else if top = 0xB4 ∨ top = 0xB5 ∨ top = 0xBC ∨ top = 0xBD then some .t14
  else if top ≤ 0xBF then none
  else if top ≤ 0xCF then some .t15
  else if top ≤ 0xDE then some .t16
  else if top = 0xDF then some .t17
  else if top ≤ 0xE7 then some .t18
  else if top ≤ 0xEF then none
  else some .t19

/-! ## Modes -/

/-- A state in another mode, nothing else changed: the registers in use are those of the first. -/
def State.withMode (m : BitVec 5) (s : State) : State := s.setCpsr (setPsrM m s.cpsr)

/-- The next state of an outcome changed. -/
def mapNext (g : State → State) (o : Out) : Out :=
  match o with
  | .next s => .next (g s)
  | .fault r => .fault r
  | .refused r => .refused r

/-! ## Runs -/

/-- The step has a next state. -/
def CanStep (s : State) : Prop := ∃ t, step s = .next t

/-- What every step of a run keeps: memory in its canonical form (20_memory.md R63); a legal mode (R31); in THUMB
state an even PC (R35) and zero-extended halfwords in the two live pipeline slots (R33, R34); in ARM state a
word-aligned PC (40 R123). -/
structure Inv (s : State) : Prop where
  memory : s.mem.wf = true
  mode : legalMode (psrM s.cpsr) = true
  thumbPc : psrT s.cpsr = true → (s.reg pcReg).getLsbD 0 = false
  armPc : psrT s.cpsr = false → (s.reg pcReg).extractLsb' 0 2 = 0
  liveSlots : psrT s.cpsr = true → ∀ k, k ≠ s.pipe.index + 2 → (s.pipe.opcode.get k).extractLsb' 16 16 = 0

end Sys2Proof.Machine
end

