-- ==== Sys2Proof/Certificates/Slice0/Obligations.lean ====
section
/-! DEFINITION. The statements for the provers, from the numbered rules of spec/. -/

open Sys2Proof Sys2Proof.Machine

/-- For every well-formed instruction i, with every operand at every value, and any bytes after it, decoding the bytes
of encode i gives i and leaves exactly the bytes after it. (30_encoding.md §3 (R93 to R111), 30_encoding.md R92) -/
def Obligations.DecodeEncode : Prop :=
  ∀ (i : Instr) (rest : List Byte), i.wellFormed = true → decode (encode i ++ rest) = .ok (i, rest)

/-- Decoding is total on the 65536 opcodes and loses no bit: each opcode decodes to a well-formed instruction, and
encoding that instruction gives the opcode back. (30_encoding.md R92, 30_encoding.md R117, 30_encoding.md §3) -/
def Obligations.EncodeDecode : Prop :=
  ∀ op : Opcode, (decodeOp op).wellFormed = true ∧ encodeOp (decodeOp op) = op

/-- For every opcode exactly one of the ninety-four rows of the opcode table covers it, and that row carries the
mnemonic of the instruction the opcode decodes to. decodeOp takes the opcode only, so decoding depends on no mode,
flag or register. (R92) -/
def Obligations.OneTableRow : Prop :=
  ∀ op : Opcode, ∃ r, opcodeTable.filter (fun r => r.covers op) = [r] ∧ r.mnemonic = (decodeOp op).mnemonic

/-- The format of the decoded instruction is the one R91's table gives for op[15:8] (with op[9] inside 0x50-0x5F),
reserved values have none, and two opcodes with the same index op[15:6] decode to instructions of the same row of the
table. (30_encoding.md R91, 90_conflicts.md C1) -/
def Obligations.FormatRanges : Prop :=
  (∀ op : Opcode, formatOf (decodeOp op) = formatOfRange op) ∧
  ∀ op op' : Opcode, op.extractLsb' 6 10 = op'.extractLsb' 6 10 → (decodeOp op).mnemonic = (decodeOp op').mnemonic

/-- Eight opcodes, four of them the document's own (0x2000, 0x1C48, 0xF000, 0xF804), decode to the instructions the
spec gives for them. (30_encoding.md R94, R95, R97, R99, R103, R106, R111, 95_test_vectors.md 1.3) -/
def Obligations.SpecWords : Prop :=
  decodeOp 0x2000 = .movImm8 0 0 ∧ decodeOp 0x1C48 = .addImm3 0 1 1 ∧ decodeOp 0xF000 = .blHi 0 ∧
  decodeOp 0xF804 = .blLo 4 ∧ decodeOp 0xB511 = .push true 0x11 ∧ decodeOp 0x4487 = .addHi 15 0 ∧
  decodeOp 0x5088 = .strRo 0 1 2 ∧ decodeOp 0x9801 = .ldrSp 0 1

/-- In THUMB state, with irq_line inactive at the boundary or cpsr.I = 1, a step is exec of the instruction the
pipeline slot holds, the interrupt level consumed; and when that slot holds the halfword that memory holds at A =
x[15] - 4 and the two bytes at A decode to i, the step is exec of i. What the next instruction and the PC are is said
by the statements about exec (Advances, RefillsThumb, RefillsArm). (40_pipeline_shifter_flags.md R126, 10_state.md
R34, 92_eei_decisions.md D34) -/
def Obligations.StepRunsDecoded : Prop :=
  ∀ s : State, psrT s.cpsr = true → (s.irqLine.headD false = false ∨ psrI s.cpsr = true) →
    step s = exec (decodeOp ((s.pipe.opcode.get s.pipe.index).setWidth 16)) { s with irqLine := s.irqLine.tail } ∧
    ∀ i : Instr, s.pipe.opcode.get s.pipe.index = (readHalf s.mem (s.reg pcReg - 4)).setWidth 32 → (s.reg pcReg).getLsbD 0 = false →
      decode [s.mem.read (s.reg pcReg - 4).toNat, s.mem.read ((s.reg pcReg - 4).toNat + 1)] = .ok (i, []) →
      step s = exec i { s with irqLine := s.irqLine.tail }

/-- In THUMB state and a legal mode, with irq_line active and cpsr.I = 0, the step enters IRQ mode instead of
executing the opcode, even one that would fault: R14_irq is x[15] = A + 4, spsr[IRQ] the whole old CPSR, I = 1, T = 0,
the rest of the CPSR kept, the pipeline refilled at 0x18 in ARM state, memory unchanged, the two vector fetches the
only bus events, no prefetch among them, R0 to R7 kept, and every other architectural register of every bank kept.
(60_exceptions.md R304, R307, R301, 92_eei_decisions.md D17) -/
def Obligations.StepTakesInterrupt : Prop :=
  ∀ s : State, psrT s.cpsr = true → legalMode (psrM s.cpsr) = true → s.irqLine.headD false = true →
    psrI s.cpsr = false →
    ∃ t, step s = .next t ∧ t.reg lrReg = s.reg pcReg ∧ t.spsr = { s.spsr with irq := s.cpsr } ∧
      psrM t.cpsr = 0b10010 ∧ psrI t.cpsr = true ∧ psrT t.cpsr = false ∧
      (∀ k, 5 < k → k ≠ 7 → t.cpsr.getLsbD k = s.cpsr.getLsbD k) ∧
      RefillsArm 0x18 (s.pipe.opcode.get 2) s t ∧ t.mem = s.mem ∧ t.regions = s.regions ∧ t.irqLine = s.irqLine.tail ∧
      t.trace = s.trace ++ refillArmEvents 0x18 ∧
      ∀ b i, i ≠ pcReg → (i ≠ lrReg ∨ b ≠ Bank.irq) → t.bankedReg b i = s.bankedReg b i

/-- A step asked of a state with cpsr.T = 0 is refused by name: the ARM decoder is outside the spec. That the model
refuses is its reading of LeaveThumb (log 7). (00_scope.md R12, 93_implementation_defined.md U15) -/
def Obligations.StepRefusesArmState : Prop :=
  ∀ s : State, psrT s.cpsr = false → step s = .refused .armState

/-- In THUMB state and a legal mode, a step has a next state if it takes the interrupt or the opcode is one the spec
gives an effect; otherwise the opcode is reserved and the step faults with reservedEncoding, or its register list is
empty and it faults with emptyRegisterList. Which opcodes stop is the spec's decision D10, D11. (60_exceptions.md
R305, R307, 70_reset_and_hazards.md R367, 92_eei_decisions.md D10, D11) -/
def Obligations.StepFaultsOnlyWhenUnspecified : Prop :=
  ∀ s : State, psrT s.cpsr = true → legalMode (psrM s.cpsr) = true →
    (s.irqTaken = true ∨ (decodeOp s.nextOpcode).specified = true → CanStep s) ∧
    (s.irqTaken = false → (decodeOp s.nextOpcode).specified = false →
      (isReservedByte (s.nextOpcode.extractLsb' 8 8) = true ∧ step s = .fault .reservedEncoding) ∨
      (isReservedByte (s.nextOpcode.extractLsb' 8 8) = false ∧ step s = .fault .emptyRegisterList))

/-- If Inv holds of a state and its step has a next state, Inv holds of that state: memory in canonical form, a legal
mode, an even PC and zero-extended live pipeline slots in THUMB state, a word-aligned PC in ARM state. (10_state.md
R31, R33, R34, R35, 40_pipeline_shifter_flags.md R122, R123, 20_memory.md R63) -/
def Obligations.StepKeepsInvariant : Prop :=
  ∀ s t : State, Inv s → step s = .next t → Inv t

/-- Inv holds of State.reset. (10_state.md R41, 70_reset_and_hazards.md R350) -/
def Obligations.ResetHasInvariant : Prop :=
  Inv State.reset

/-- After reset cpsr.M is 0b10011, I = F = 1, T = 0, x[15] = 8, pipe.index = 0, and the first two pipeline slots hold
the words read from the bus at 0 and 4; Reset() from any state does the same and records its two fetches. The values
are the spec's decision D23; the zero of every register the spec leaves unspecified is the model's choice and is not
stated here. (70_reset_and_hazards.md R350, 10_state.md R41, 92_eei_decisions.md D23) -/
def Obligations.ResetState : Prop :=
  (psrM State.reset.cpsr = 0b10011 ∧ psrI State.reset.cpsr = true ∧ psrF State.reset.cpsr = true ∧
    psrT State.reset.cpsr = false ∧ RefillsArm 0 (State.reset.pipe.opcode.get 2) { State.reset with trace := [] } State.reset) ∧
  ∀ s : State, psrM (resetCore s).cpsr = 0b10011 ∧ psrI (resetCore s).cpsr = true ∧ psrF (resetCore s).cpsr = true ∧
    psrT (resetCore s).cpsr = false ∧ RefillsArm 0 (s.pipe.opcode.get 2) s (resetCore s) ∧
    (resetCore s).trace = s.trace ++ refillArmEvents 0 ∧ (resetCore s).mem = s.mem ∧
    (resetCore s).regions = s.regions

/-- PREFETCH fills slot (index + 2) mod 3 with the halfword at x[15] and changes nothing else; ADVANCE_PC increments
the index modulo 3 and adds 2 to x[15]; a refill at a target sets the index to 0, fetches the target (NONSEQ) and the
next opcode (SEQ), and leaves x[15] two instructions ahead, in halfwords for THUMB, in words for ARM; the third slot
is kept. (R120, R121, R122, R123) -/
def Obligations.PipelinePrimitives : Prop :=
  ∀ (s : State) (f : ThumbFormat) (t : Word),
    ((s.prefetch f).pipe.opcode.get (s.pipe.index + 2) = fetchedHalf s (s.reg pcReg) ∧
      (∀ k, k ≠ s.pipe.index + 2 → (s.prefetch f).pipe.opcode.get k = s.pipe.opcode.get k) ∧
      (s.prefetch f).pipe.index = s.pipe.index ∧ (s.prefetch f).mem = s.mem ∧
      Frame [] [] [prefetchEvent f s] s (s.prefetch f)) ∧
    (s.advance.pipe.index = s.pipe.index + 1 ∧ s.advance.reg pcReg = s.reg pcReg + 2 ∧
      s.advance.pipe.opcode = s.pipe.opcode ∧ s.advance.mem = s.mem ∧ Frame [pcReg] [] [] s s.advance) ∧
    (RefillsThumb t (s.pipe.opcode.get 2) s (s.jumpThumb t) ∧ (s.jumpThumb t).mem = s.mem ∧
      Frame [pcReg] [] (refillThumbEvents t) s (s.jumpThumb t)) ∧
    (RefillsArm t (s.pipe.opcode.get 2) s (s.jumpArm t) ∧ (s.jumpArm t).mem = s.mem ∧
      Frame [pcReg] [] (refillArmEvents t) s (s.jumpArm t))

/-- For every instruction that completes from THUMB state: its bus events are the one opcode read of A + 4 with the
format's tag, the data accesses and internal cycles, none of which is a 16-bit opcode read, and the refill's two
fetches if it refills; the opcode read comes first, except on THUMB.11, where the one data access precedes it; and it
ends either advanced (index + 1, x[15] + 2, T = 1) or refilled (index 0, in THUMB state if T = 1 afterwards, in ARM
state if T = 0). (40_pipeline_shifter_flags.md R125, R127, 90_conflicts.md C7, 92_eei_decisions.md D14) -/
def Obligations.HandlerOrder : Prop :=
  ∀ (i : Instr) (s t : State), psrT s.cpsr = true → exec i s = .next t →
    ∃ (f : ThumbFormat) (data ending : List BusEvent), formatOf i = some f ∧
      t.trace = s.trace ++ (if f = .t11 then data ++ [prefetchEvent f s] else prefetchEvent f s :: data) ++ ending ∧
      (∀ e ∈ data, isOpcodeRead e = false) ∧ (f = .t11 → data.length = 1) ∧
      ((ending = [] ∧ t.reg pcReg = s.reg pcReg + 2 ∧ t.pipe.index = s.pipe.index + 1 ∧ psrT t.cpsr = true) ∨
        ∃ (target : Word) (b : State), b = { t with trace := s.trace ++ prefetchEvent f s :: data } ∧
          (ending = refillThumbEvents target ∧ RefillsThumb target (deadSlot s) b t ∧ psrT t.cpsr = true ∨
            ending = refillArmEvents target ∧ RefillsArm target (deadSlot s) b t ∧ psrT t.cpsr = false))

/-- For every type, value, amount 0 to 31 and carry-in, ShiftImm gives the result and carry-out of the rules: LSL #0
the identity with the carry kept, LSR #0 and ASR #0 shifts by 32, ROR #0 the rotation through carry, and for 1 to 31
the shifted value and the last bit shifted out. (R130, R131, R132, R133) -/
def Obligations.ImmediateShifts : Prop :=
  ∀ (v : Word) (n : BitVec 5) (c : Bool),
    (shiftImm .lsl v n c = if n.toNat = 0 then ⟨v, c⟩
      else ⟨BitVec.ofNat 32 (v.toNat * 2 ^ n.toNat), v.getLsbD (32 - n.toNat)⟩) ∧
    (shiftImm .lsr v n c = if n.toNat = 0 then ⟨0, v.getLsbD 31⟩
      else ⟨BitVec.ofNat 32 (v.toNat / 2 ^ n.toNat), v.getLsbD (n.toNat - 1)⟩) ∧
    (shiftImm .asr v n c = if n.toNat = 0 then ⟨if v.getLsbD 31 then 0xFFFFFFFF else 0, v.getLsbD 31⟩
      else ⟨(v >>> n.toNat) ||| (if v.getLsbD 31 then 0xFFFFFFFF#32 <<< (32 - n.toNat) else 0), v.getLsbD (n.toNat - 1)⟩) ∧
    (shiftImm .ror v n c = if n.toNat = 0 then ⟨((if c then 1#32 else 0#32) <<< 31) ||| (v >>> 1), v.getLsbD 0⟩
      else ⟨(v >>> n.toNat) ||| (v <<< (32 - n.toNat)), v.getLsbD (n.toNat - 1)⟩)

/-- For every type and value, ShiftReg with amount 0 keeps value and carry; 1 to 31 shifts as the immediate form does;
32 and above gives the table's results: LSL and LSR 0 with carry v[0] or v[31] at 32 and 0 beyond, ASR the sign fill,
ROR the rotation by the amount modulo 32 with carry v[31] at its multiples. (R134) -/
def Obligations.RegisterShifts : Prop :=
  ∀ (v : Word) (n : BitVec 8) (c : Bool),
    (n.toNat = 0 → ∀ k, shiftReg k v n c = ⟨v, c⟩) ∧
    (0 < n.toNat → n.toNat < 32 →
      shiftReg .lsl v n c = ⟨BitVec.ofNat 32 (v.toNat * 2 ^ n.toNat), v.getLsbD (32 - n.toNat)⟩ ∧
      shiftReg .lsr v n c = ⟨BitVec.ofNat 32 (v.toNat / 2 ^ n.toNat), v.getLsbD (n.toNat - 1)⟩ ∧
      shiftReg .asr v n c = ⟨(v >>> n.toNat) ||| (if v.getLsbD 31 then 0xFFFFFFFF#32 <<< (32 - n.toNat) else 0),
        v.getLsbD (n.toNat - 1)⟩ ∧
      shiftReg .ror v n c = ⟨(v >>> n.toNat) ||| (v <<< (32 - n.toNat)), v.getLsbD (n.toNat - 1)⟩) ∧
    (32 ≤ n.toNat →
      shiftReg .lsl v n c = ⟨0, decide (n.toNat = 32) && v.getLsbD 0⟩ ∧
      shiftReg .lsr v n c = ⟨0, decide (n.toNat = 32) && v.getLsbD 31⟩ ∧
      shiftReg .asr v n c = ⟨if v.getLsbD 31 then 0xFFFFFFFF else 0, v.getLsbD 31⟩ ∧
      (n.toNat % 32 = 0 → shiftReg .ror v n c = ⟨v, v.getLsbD 31⟩) ∧
      (n.toNat % 32 ≠ 0 → shiftReg .ror v n c =
        ⟨(v >>> (n.toNat % 32)) ||| (v <<< (32 - n.toNat % 32)), v.getLsbD (n.toNat % 32 - 1)⟩))

/-- AddFlags, SubFlags, AdcFlags and SbcFlags give the result modulo 2^32, C as carry out (no borrow for a
subtraction), and V exactly when the signed result is out of range. (40_pipeline_shifter_flags.md R136, R137, R138,
R139, R141) -/
def Obligations.AdderFlags : Prop :=
  ∀ (a b : Word) (c : Bool),
    ((addFlags a b).value = a + b ∧ ((addFlags a b).carry = true ↔ 2 ^ 32 ≤ a.toNat + b.toNat) ∧
      ((addFlags a b).overflow = true ↔ a.toInt + b.toInt < -2 ^ 31 ∨ 2 ^ 31 ≤ a.toInt + b.toInt)) ∧
    ((subFlags a b).value = a - b ∧ ((subFlags a b).carry = true ↔ b.toNat ≤ a.toNat) ∧
      ((subFlags a b).overflow = true ↔ a.toInt - b.toInt < -2 ^ 31 ∨ 2 ^ 31 ≤ a.toInt - b.toInt)) ∧
    ((adcFlags a b c).value = a + b + (if c then 1 else 0) ∧
      ((adcFlags a b c).carry = true ↔ 2 ^ 32 ≤ a.toNat + b.toNat + c.toNat) ∧
      ((adcFlags a b c).overflow = true ↔
        a.toInt + b.toInt + c.toNat < -2 ^ 31 ∨ 2 ^ 31 ≤ a.toInt + b.toInt + c.toNat)) ∧
    ((sbcFlags a b c).value = a - b - (if c then 0 else 1) ∧
      ((sbcFlags a b c).carry = true ↔ b.toNat + (1 - c.toNat) ≤ a.toNat) ∧
      ((sbcFlags a b c).overflow = true ↔
        a.toInt - b.toInt - (1 - c.toNat : Int) < -2 ^ 31 ∨ 2 ^ 31 ≤ a.toInt - b.toInt - (1 - c.toNat : Int)))

/-- CondPassed reads the flags as the condition table says, for each of the fifteen conditions. (R140) -/
def Obligations.ConditionTable : Prop :=
  ∀ p : Word,
    (condPassed p .eq = true ↔ psrZ p = true) ∧ (condPassed p .ne = true ↔ psrZ p = false) ∧
    (condPassed p .cs = true ↔ psrC p = true) ∧ (condPassed p .cc = true ↔ psrC p = false) ∧
    (condPassed p .mi = true ↔ psrN p = true) ∧ (condPassed p .pl = true ↔ psrN p = false) ∧
    (condPassed p .vs = true ↔ psrV p = true) ∧ (condPassed p .vc = true ↔ psrV p = false) ∧
    (condPassed p .hi = true ↔ psrC p = true ∧ psrZ p = false) ∧
    (condPassed p .ls = true ↔ psrC p = false ∨ psrZ p = true) ∧
    (condPassed p .ge = true ↔ psrN p = psrV p) ∧ (condPassed p .lt = true ↔ psrN p ≠ psrV p) ∧
    (condPassed p .gt = true ↔ psrZ p = false ∧ psrN p = psrV p) ∧
    (condPassed p .le = true ↔ psrZ p = true ∨ psrN p ≠ psrV p) ∧ condPassed p .al = true

/-- Two memories in the model's canonical form with the same byte at every address are the same list. The form is the
model's (log 5). (20_memory.md R63, 10_state.md R40) -/
def Obligations.CanonicalMemory : Prop :=
  ∀ m m' : Memory, m.wf = true → m'.wf = true → (∀ k, m.read k = m'.read k) → m = m' 

/-- On canonical memory MemWrite of width 1, 2 or 4 completes whatever answers at the address: where it is read-write
memory it puts the low 8, 16 or 32 bits at the address with its low bits cleared, least significant byte first, and
leaves every other byte; elsewhere it leaves memory. The bus event carries the unmasked address, the map of the bus
and the canonical form are kept. Byte order and alignment are the spec's decisions D1, D3; that the bus always answers
is D2, and the three kinds of address are the model's (log 5). (20_memory.md R71, R65, R63, R62, 92_eei_decisions.md
D1, D2, D3) -/
def Obligations.StoreLittleEndian : Prop :=
  ∀ (s : State) (a v : Word) (w : Width) (tag : SeqTag), s.mem.wf = true →
    Stored a w v s (s.store a w v tag) ∧ (s.kindAt a ≠ .ram → (s.store a w v tag).mem = s.mem) ∧
    (s.store a w v tag).regions = s.regions ∧ (s.store a w v tag).mem.wf = true ∧
    (s.store a w v tag).trace = s.trace ++ [.write a w (w.trunc v) tag] ∧
    (w.align a).toNat + w.bytes ≤ 2 ^ 32

/-- MemRead of one byte gives the byte that the bus answers at the address, sign-extended with SIGNED, else zero-
extended. (R66) -/
def Obligations.LoadByteRule : Prop :=
  ∀ (s : State) (a : Word),
    s.load a .byte .signed = (s.busByte a).signExtend 32 ∧
    s.load a .byte .plain = (s.busByte a).setWidth 32 ∧ s.load a .byte .rotate = (s.busByte a).setWidth 32

/-- A halfword read at an even address extends the aligned halfword the bus answers; at an odd address ROTATE puts its
upper byte into bits 7:0, its lower byte into bits 31:24 and zeros between, and SIGNED gives the sign-extended byte
the bus answers at the odd address. A word read with ROTATE has as byte k byte (k + a[1:0]) mod 4 of the aligned word
the bus answers; without it that word unrotated. In memory the bus answers the bytes stored there, low byte first;
elsewhere a free value of the accesses made so far, the aligned address and the width, never assumed zero. The reads
and the byte order are by the spec's decisions D1, D4 to D7. That some value is always answered is R62 and D2; the
split into kinds of address, in the last two clauses, and the form of that free value are the model's choice (log 5).
(20_memory.md R67, R68, R69, R70, R62, R63, 92_eei_decisions.md D1, D2, D4, D5, D6, D7) -/
def Obligations.LoadHalfWordRules : Prop :=
  ∀ (s : State) (a : Word),
    (a.getLsbD 0 = false → ∀ e, s.load a .half e =
      if e = .signed then (s.busHalf a).signExtend 32 else (s.busHalf a).setWidth 32) ∧
    (a.getLsbD 0 = true →
      s.load a .half .rotate = (s.busHalf a).extractLsb' 0 8 ++ 0#16 ++ (s.busHalf a).extractLsb' 8 8 ∧
      s.load a .half .signed = (s.busByte a).signExtend 32 ∧ s.load a .half .plain = (s.busHalf a).setWidth 32) ∧
    (∀ k, k < 4 →
      (s.load a .word .rotate).extractLsb' (8 * k) 8 = (s.busWord a).extractLsb' (8 * ((k + a.toNat) % 4)) 8) ∧
    s.load a .word .plain = s.busWord a ∧
    (s.kindAt a ≠ .external → s.busByte a = s.mem.read a.toNat ∧
      (∀ k, k < 2 → (s.busHalf a).extractLsb' (8 * k) 8 = s.mem.read (2 * (a.toNat / 2) + k)) ∧
      ∀ k, k < 4 → (s.busWord a).extractLsb' (8 * k) 8 = s.mem.read (4 * (a.toNat / 4) + k)) ∧
    (s.kindAt a = .external →
      s.busByte a = (Config.busAnswer (s.trace.filterMap BusEvent.access) a .byte).setWidth 8 ∧
      s.busHalf a = (Config.busAnswer (s.trace.filterMap BusEvent.access) (a &&& 0xFFFFFFFE) .half).setWidth 16 ∧
      s.busWord a = Config.busAnswer (s.trace.filterMap BusEvent.access) (a &&& 0xFFFFFFFC) .word)

/-- Between legal modes SwitchMode has a next state with the new mode; every architectural register Ri of bank b (R24)
has the value it had; R0 to R7, R15, the other CPSR bits, the SPSRs, the pipeline, memory and the trace are unchanged;
between User and System, and within one mode, no register and no slot moves. To or from an illegal mode number it
faults. The steps are the spec's decision D9. (10_state.md R24, R25, R31, 92_eei_decisions.md D9) -/
def Obligations.SwitchModeKeepsRegisters : Prop :=
  ∀ (s : State) (new : BitVec 5),
    (legalMode (psrM s.cpsr) = true → legalMode new = true →
      ∃ t, switchMode new s = .next t ∧ psrM t.cpsr = new ∧ (∀ k, 5 ≤ k → t.cpsr.getLsbD k = s.cpsr.getLsbD k) ∧
        (∀ b i, t.bankedReg b i = s.bankedReg b i) ∧ (∀ i : Reg, i < 8 ∨ i = pcReg → t.reg i = s.reg i) ∧
        (bankOf new = bankOf (psrM s.cpsr) → t.x = s.x ∧ t.bank = s.bank) ∧
        t.spsr = s.spsr ∧ t.pipe = s.pipe ∧ t.regions = s.regions ∧ t.mem = s.mem ∧ t.irqLine = s.irqLine ∧ t.trace = s.trace) ∧
    (legalMode (psrM s.cpsr) = false ∨ legalMode new = false → switchMode new s = .fault .illegalMode)

/-- From a legal mode, EnterException(mode, vector, link) for a mode with an SPSR completes: R14 of the mode is link,
the mode's SPSR is the whole old CPSR and no other SPSR changes, M is the mode, I = 1, T = 0, every other CPSR bit as
before, the pipeline refilled at the vector in ARM state (x[15] = vector + 8), memory unchanged and the two vector
fetches the only bus events; R0 to R7 are kept and so is every other architectural register of every bank. (R301) -/
def Obligations.ExceptionEntry : Prop :=
  ∀ (s : State) (mode : Mode) (vector link : Word), legalMode (psrM s.cpsr) = true → mode.bank ≠ .usr →
    ∃ t, enterException mode vector link s = .next t ∧ t.reg lrReg = link ∧
      t.spsr.get mode.bank = some s.cpsr ∧ (∀ b, b ≠ mode.bank → t.spsr.get b = s.spsr.get b) ∧
      psrM t.cpsr = mode.bits ∧ psrI t.cpsr = true ∧ psrT t.cpsr = false ∧
      (∀ k, 5 < k → k ≠ 7 → t.cpsr.getLsbD k = s.cpsr.getLsbD k) ∧
      RefillsArm vector (s.pipe.opcode.get 2) s t ∧ t.mem = s.mem ∧ t.regions = s.regions ∧ t.irqLine = s.irqLine ∧
      t.trace = s.trace ++ refillArmEvents vector ∧
      ∀ b i, i ≠ pcReg → (i ≠ lrReg ∨ b ≠ mode.bank) → t.bankedReg b i = s.bankedReg b i

/-- From a legal mode SWI, with any comment, completes: the prefetch of A + 4, then R14_svc = x[15] - 2 = A + 2,
spsr[SVC] the whole old CPSR, mode Supervisor, I = 1, T = 0, the rest of the CPSR kept, x[15] = 0x10, the words the
bus answers at 8 and 12 in the pipeline; memory and every other architectural register unchanged. In an illegal mode
it faults (the spec's R25). (60_exceptions.md R302, R301, 47_thumb16_19_branch_swi.md R265, 10_state.md R25) -/
def Obligations.SwiEntersSupervisor : Prop :=
  ∀ (comment : BitVec 8) (s : State), Encodes (0b11011111#8 ++ comment) (.swi comment) ∧
    (legalMode (psrM s.cpsr) = true →
      ∃ t, exec (.swi comment) s = .next t ∧ t.reg lrReg = s.reg pcReg - 2 ∧ t.spsr = { s.spsr with svc := s.cpsr } ∧
        psrM t.cpsr = 0b10011 ∧ psrI t.cpsr = true ∧ psrT t.cpsr = false ∧
        (∀ k, 5 < k → k ≠ 7 → t.cpsr.getLsbD k = s.cpsr.getLsbD k) ∧
        RefillsArm 8 (deadSlot s) (s.after [prefetchEvent .t17 s]) t ∧ t.mem = s.mem ∧ t.regions = s.regions ∧ t.irqLine = s.irqLine ∧
        t.trace = s.trace ++ prefetchEvent .t17 s :: refillArmEvents 8 ∧
        ∀ b i, i ≠ pcReg → (i ≠ lrReg ∨ b ≠ Bank.svc) → t.bankedReg b i = s.bankedReg b i) ∧
    (legalMode (psrM s.cpsr) = false → exec (.swi comment) s = .fault .illegalMode)

/-- SWI executed in THUMB state in a legal mode other than Supervisor, then the exception return with k = 0: the CPSR,
R0 to R14 and memory are as before the SWI, every other architectural register but R14_svc too, and the THUMB pipeline
is refilled at A + 2. The return is the spec's contract D29 for ARM-state code. (60_exceptions.md R309, R301, R302,
92_eei_decisions.md D29) -/
def Obligations.SwiRoundTrip : Prop :=
  ∀ (comment : BitVec 8) (s t : State), psrT s.cpsr = true → legalMode (psrM s.cpsr) = true →
    psrM s.cpsr ≠ 0b10011 → (s.reg pcReg).getLsbD 0 = false → exec (.swi comment) s = .next t →
    ∃ u, exceptionReturn 0 t = .next u ∧ u.cpsr = s.cpsr ∧ (∀ r, r ≠ pcReg → u.reg r = s.reg r) ∧
      (∀ b i, i ≠ pcReg → (i ≠ lrReg ∨ b ≠ Bank.svc) → u.bankedReg b i = s.bankedReg b i) ∧ u.mem = s.mem ∧
      u.regions = s.regions ∧ RefillsThumb (s.reg pcReg - 2) (deadSlot s) t u

/-- An interrupt taken in THUMB state in a legal mode other than IRQ, then the exception return with k = 4: the CPSR,
all registers R0 to R15 and memory are as before (so an interrupt between the halves of a BL does no harm), every
other architectural register but R14_irq too, and the pipeline is refilled at A, the instruction not executed. By the
spec's decisions D17, D29. (60_exceptions.md R309, R304, 47_thumb16_19_branch_swi.md R272, 92_eei_decisions.md D17,
D29) -/
def Obligations.InterruptRoundTrip : Prop :=
  ∀ s t : State, psrT s.cpsr = true → legalMode (psrM s.cpsr) = true → psrM s.cpsr ≠ 0b10010 →
    (s.reg pcReg).getLsbD 0 = false → s.irqTaken = true → step s = .next t →
    ∃ u, exceptionReturn 4 t = .next u ∧ u.cpsr = s.cpsr ∧ (∀ r, u.reg r = s.reg r) ∧
      (∀ b i, (i ≠ lrReg ∨ b ≠ Bank.irq) → u.bankedReg b i = s.bankedReg b i) ∧ u.mem = s.mem ∧
      u.regions = s.regions ∧ RefillsThumb (s.reg pcReg - 4) (s.pipe.opcode.get 2) t u

/-- From every state, with every operand, LSL, LSR and ASR Rd, Rs, #imm5 complete: Rd is the shifter's result, N and Z
are from it, C the carry-out, V and every other register, CPSR bit, bank, SPSR and byte of memory unchanged; one
opcode read, and the PC advances. (R151, R152, R153) -/
def Obligations.ShiftByImmediate : Prop :=
  ∀ (rd rs : LowReg) (imm5 : BitVec 5) (s : State),
    (Encodes (0b00000#5 ++ imm5 ++ lowBits rs ++ lowBits rd) (.lslImm rd rs imm5) ∧
      ∃ t r, exec (.lslImm rd rs imm5) s = .next t ∧ r = shiftImm .lsl (s.reg (low rs)) imm5 (psrC s.cpsr) ∧
        t.reg (low rd) = r.value ∧ SetsNZ r.value t ∧ psrC t.cpsr = r.carry ∧
        Quiet .t1 [low rd] [bitN, bitZ, bitC] s t) ∧
    (Encodes (0b00001#5 ++ imm5 ++ lowBits rs ++ lowBits rd) (.lsrImm rd rs imm5) ∧
      ∃ t r, exec (.lsrImm rd rs imm5) s = .next t ∧ r = shiftImm .lsr (s.reg (low rs)) imm5 (psrC s.cpsr) ∧
        t.reg (low rd) = r.value ∧ SetsNZ r.value t ∧ psrC t.cpsr = r.carry ∧
        Quiet .t1 [low rd] [bitN, bitZ, bitC] s t) ∧
    (Encodes (0b00010#5 ++ imm5 ++ lowBits rs ++ lowBits rd) (.asrImm rd rs imm5) ∧
      ∃ t r, exec (.asrImm rd rs imm5) s = .next t ∧ r = shiftImm .asr (s.reg (low rs)) imm5 (psrC s.cpsr) ∧
        t.reg (low rd) = r.value ∧ SetsNZ r.value t ∧ psrC t.cpsr = r.carry ∧
        Quiet .t1 [low rd] [bitN, bitZ, bitC] s t)

/-- From every state, with every operand, the four forms complete: Rd is the sum or difference, N, Z, C, V are the
adder's, everything else unchanged; one opcode read, and the PC advances. (R154, R155, R156, R157) -/
def Obligations.AddSubtract : Prop :=
  ∀ (rd rs rn : LowReg) (imm3 : BitVec 3) (s : State),
    (Encodes (0b0001100#7 ++ lowBits rn ++ lowBits rs ++ lowBits rd) (.addReg rd rs rn) ∧
      ∃ t r, exec (.addReg rd rs rn) s = .next t ∧ r = addFlags (s.reg (low rs)) (s.reg (low rn)) ∧
        t.reg (low rd) = r.value ∧ SetsNZ r.value t ∧ psrC t.cpsr = r.carry ∧ psrV t.cpsr = r.overflow ∧
        Quiet .t2 [low rd] [bitN, bitZ, bitC, bitV] s t) ∧
    (Encodes (0b0001101#7 ++ lowBits rn ++ lowBits rs ++ lowBits rd) (.subReg rd rs rn) ∧
      ∃ t r, exec (.subReg rd rs rn) s = .next t ∧ r = subFlags (s.reg (low rs)) (s.reg (low rn)) ∧
        t.reg (low rd) = r.value ∧ SetsNZ r.value t ∧ psrC t.cpsr = r.carry ∧ psrV t.cpsr = r.overflow ∧
        Quiet .t2 [low rd] [bitN, bitZ, bitC, bitV] s t) ∧
    (Encodes (0b0001110#7 ++ imm3 ++ lowBits rs ++ lowBits rd) (.addImm3 rd rs imm3) ∧
      ∃ t r, exec (.addImm3 rd rs imm3) s = .next t ∧ r = addFlags (s.reg (low rs)) (imm3.setWidth 32) ∧
        t.reg (low rd) = r.value ∧ SetsNZ r.value t ∧ psrC t.cpsr = r.carry ∧ psrV t.cpsr = r.overflow ∧
        Quiet .t2 [low rd] [bitN, bitZ, bitC, bitV] s t) ∧
    (Encodes (0b0001111#7 ++ imm3 ++ lowBits rs ++ lowBits rd) (.subImm3 rd rs imm3) ∧
      ∃ t r, exec (.subImm3 rd rs imm3) s = .next t ∧ r = subFlags (s.reg (low rs)) (imm3.setWidth 32) ∧
        t.reg (low rd) = r.value ∧ SetsNZ r.value t ∧ psrC t.cpsr = r.carry ∧ psrV t.cpsr = r.overflow ∧
        Quiet .t2 [low rd] [bitN, bitZ, bitC, bitV] s t)

/-- From every state, with every operand: MOV writes the zero-extended immediate, clears N, sets Z exactly for 0 and
keeps C and V; ADD and SUB write Rd and all four flags; CMP writes the flags only. Everything else is unchanged; one
opcode read, and the PC advances. (R158, R159, R160, R161) -/
def Obligations.ImmediateOperations : Prop :=
  ∀ (rd : LowReg) (imm8 : BitVec 8) (s : State),
    (Encodes (0b00100#5 ++ lowBits rd ++ imm8) (.movImm8 rd imm8) ∧
      ∃ t, exec (.movImm8 rd imm8) s = .next t ∧ t.reg (low rd) = imm8.setWidth 32 ∧ psrN t.cpsr = false ∧
        (psrZ t.cpsr = true ↔ imm8 = 0) ∧ Quiet .t3 [low rd] [bitN, bitZ] s t) ∧
    (Encodes (0b00101#5 ++ lowBits rd ++ imm8) (.cmpImm8 rd imm8) ∧
      ∃ t r, exec (.cmpImm8 rd imm8) s = .next t ∧ r = subFlags (s.reg (low rd)) (imm8.setWidth 32) ∧
        SetsNZ r.value t ∧ psrC t.cpsr = r.carry ∧ psrV t.cpsr = r.overflow ∧
        Quiet .t3 [] [bitN, bitZ, bitC, bitV] s t) ∧
    (Encodes (0b00110#5 ++ lowBits rd ++ imm8) (.addImm8 rd imm8) ∧
      ∃ t r, exec (.addImm8 rd imm8) s = .next t ∧ r = addFlags (s.reg (low rd)) (imm8.setWidth 32) ∧
        t.reg (low rd) = r.value ∧ SetsNZ r.value t ∧ psrC t.cpsr = r.carry ∧ psrV t.cpsr = r.overflow ∧
        Quiet .t3 [low rd] [bitN, bitZ, bitC, bitV] s t) ∧
    (Encodes (0b00111#5 ++ lowBits rd ++ imm8) (.subImm8 rd imm8) ∧
      ∃ t r, exec (.subImm8 rd imm8) s = .next t ∧ r = subFlags (s.reg (low rd)) (imm8.setWidth 32) ∧
        t.reg (low rd) = r.value ∧ SetsNZ r.value t ∧ psrC t.cpsr = r.carry ∧ psrV t.cpsr = r.overflow ∧
        Quiet .t3 [low rd] [bitN, bitZ, bitC, bitV] s t)

/-- From every state, with every operand (Rd = Rs included), the five write their bitwise result to Rd and N, Z from
it, and TST writes N, Z of Rd & Rs and no register; C, V and everything else unchanged; one opcode read, and the PC
advances. (R171, R172, R179, R183, R185, R186) -/
def Obligations.AluLogical : Prop :=
  ∀ (rd rs : LowReg) (s : State),
    (Encodes (0b0100000000#10 ++ lowBits rs ++ lowBits rd) (.andAlu rd rs) ∧
      ∃ t r, exec (.andAlu rd rs) s = .next t ∧ r = s.reg (low rd) &&& s.reg (low rs) ∧ t.reg (low rd) = r ∧ SetsNZ r t ∧
        Quiet .t4 [low rd] [bitN, bitZ] s t) ∧
    (Encodes (0b0100000001#10 ++ lowBits rs ++ lowBits rd) (.eorAlu rd rs) ∧
      ∃ t r, exec (.eorAlu rd rs) s = .next t ∧ r = s.reg (low rd) ^^^ s.reg (low rs) ∧ t.reg (low rd) = r ∧ SetsNZ r t ∧
        Quiet .t4 [low rd] [bitN, bitZ] s t) ∧
    (Encodes (0b0100001100#10 ++ lowBits rs ++ lowBits rd) (.orrAlu rd rs) ∧
      ∃ t r, exec (.orrAlu rd rs) s = .next t ∧ r = s.reg (low rd) ||| s.reg (low rs) ∧ t.reg (low rd) = r ∧ SetsNZ r t ∧
        Quiet .t4 [low rd] [bitN, bitZ] s t) ∧
    (Encodes (0b0100001110#10 ++ lowBits rs ++ lowBits rd) (.bicAlu rd rs) ∧
      ∃ t r, exec (.bicAlu rd rs) s = .next t ∧ r = s.reg (low rd) &&& ~~~(s.reg (low rs)) ∧ t.reg (low rd) = r ∧ SetsNZ r t ∧
        Quiet .t4 [low rd] [bitN, bitZ] s t) ∧
    (Encodes (0b0100001111#10 ++ lowBits rs ++ lowBits rd) (.mvnAlu rd rs) ∧
      ∃ t r, exec (.mvnAlu rd rs) s = .next t ∧ r = ~~~(s.reg (low rs)) ∧ t.reg (low rd) = r ∧ SetsNZ r t ∧
        Quiet .t4 [low rd] [bitN, bitZ] s t) ∧
    (Encodes (0b0100001000#10 ++ lowBits rs ++ lowBits rd) (.tstAlu rd rs) ∧
      ∃ t r, exec (.tstAlu rd rs) s = .next t ∧ r = s.reg (low rd) &&& s.reg (low rs) ∧ SetsNZ r t ∧
        Quiet .t4 [] [bitN, bitZ] s t)

/-- From every state, with every operand (Rd = Rs included), the four shifts write the register shifter's result for
the amount Rs[7:0] to Rd, N, Z from it and its carry-out to C; V and everything else unchanged; one opcode read, and
the PC advances. (R173, R174, R175, R178) -/
def Obligations.AluShifts : Prop :=
  ∀ (rd rs : LowReg) (s : State),
    (Encodes (0b0100000010#10 ++ lowBits rs ++ lowBits rd) (.lslAlu rd rs) ∧
      ∃ t r, exec (.lslAlu rd rs) s = .next t ∧ r = shiftReg .lsl (s.reg (low rd)) ((s.reg (low rs)).setWidth 8) (psrC s.cpsr) ∧
        t.reg (low rd) = r.value ∧ SetsNZ r.value t ∧ psrC t.cpsr = r.carry ∧
        Quiet .t4 [low rd] [bitN, bitZ, bitC] s t) ∧
    (Encodes (0b0100000011#10 ++ lowBits rs ++ lowBits rd) (.lsrAlu rd rs) ∧
      ∃ t r, exec (.lsrAlu rd rs) s = .next t ∧ r = shiftReg .lsr (s.reg (low rd)) ((s.reg (low rs)).setWidth 8) (psrC s.cpsr) ∧
        t.reg (low rd) = r.value ∧ SetsNZ r.value t ∧ psrC t.cpsr = r.carry ∧
        Quiet .t4 [low rd] [bitN, bitZ, bitC] s t) ∧
    (Encodes (0b0100000100#10 ++ lowBits rs ++ lowBits rd) (.asrAlu rd rs) ∧
      ∃ t r, exec (.asrAlu rd rs) s = .next t ∧ r = shiftReg .asr (s.reg (low rd)) ((s.reg (low rs)).setWidth 8) (psrC s.cpsr) ∧
        t.reg (low rd) = r.value ∧ SetsNZ r.value t ∧ psrC t.cpsr = r.carry ∧
        Quiet .t4 [low rd] [bitN, bitZ, bitC] s t) ∧
    (Encodes (0b0100000111#10 ++ lowBits rs ++ lowBits rd) (.rorAlu rd rs) ∧
      ∃ t r, exec (.rorAlu rd rs) s = .next t ∧ r = shiftReg .ror (s.reg (low rd)) ((s.reg (low rs)).setWidth 8) (psrC s.cpsr) ∧
        t.reg (low rd) = r.value ∧ SetsNZ r.value t ∧ psrC t.cpsr = r.carry ∧
        Quiet .t4 [low rd] [bitN, bitZ, bitC] s t)

/-- From every state, with every operand (Rd = Rs included): ADC and SBC write Rd + Rs + C and Rd - Rs - (1 - C), NEG
writes 0 - Rs, CMP and CMN write no register; all set N, Z, C, V by their adder; everything else unchanged; one opcode
read, and the PC advances. (R176, R177, R180, R181, R182) -/
def Obligations.AluArithmetic : Prop :=
  ∀ (rd rs : LowReg) (s : State),
    (Encodes (0b0100000101#10 ++ lowBits rs ++ lowBits rd) (.adcAlu rd rs) ∧
      ∃ t r, exec (.adcAlu rd rs) s = .next t ∧ r = adcFlags (s.reg (low rd)) (s.reg (low rs)) (psrC s.cpsr) ∧
        t.reg (low rd) = r.value ∧ SetsNZ r.value t ∧ psrC t.cpsr = r.carry ∧ psrV t.cpsr = r.overflow ∧
        Quiet .t4 [low rd] [bitN, bitZ, bitC, bitV] s t) ∧
    (Encodes (0b0100000110#10 ++ lowBits rs ++ lowBits rd) (.sbcAlu rd rs) ∧
      ∃ t r, exec (.sbcAlu rd rs) s = .next t ∧ r = sbcFlags (s.reg (low rd)) (s.reg (low rs)) (psrC s.cpsr) ∧
        t.reg (low rd) = r.value ∧ SetsNZ r.value t ∧ psrC t.cpsr = r.carry ∧ psrV t.cpsr = r.overflow ∧
        Quiet .t4 [low rd] [bitN, bitZ, bitC, bitV] s t) ∧
    (Encodes (0b0100001001#10 ++ lowBits rs ++ lowBits rd) (.negAlu rd rs) ∧
      ∃ t r, exec (.negAlu rd rs) s = .next t ∧ r = subFlags 0 (s.reg (low rs)) ∧
        t.reg (low rd) = r.value ∧ SetsNZ r.value t ∧ psrC t.cpsr = r.carry ∧ psrV t.cpsr = r.overflow ∧
        Quiet .t4 [low rd] [bitN, bitZ, bitC, bitV] s t) ∧
    (Encodes (0b0100001010#10 ++ lowBits rs ++ lowBits rd) (.cmpAlu rd rs) ∧
      ∃ t r, exec (.cmpAlu rd rs) s = .next t ∧ r = subFlags (s.reg (low rd)) (s.reg (low rs)) ∧
        SetsNZ r.value t ∧ psrC t.cpsr = r.carry ∧ psrV t.cpsr = r.overflow ∧
        Quiet .t4 [] [bitN, bitZ, bitC, bitV] s t) ∧
    (Encodes (0b0100001011#10 ++ lowBits rs ++ lowBits rd) (.cmnAlu rd rs) ∧
      ∃ t r, exec (.cmnAlu rd rs) s = .next t ∧ r = addFlags (s.reg (low rd)) (s.reg (low rs)) ∧
        SetsNZ r.value t ∧ psrC t.cpsr = r.carry ∧ psrV t.cpsr = r.overflow ∧
        Quiet .t4 [] [bitN, bitZ, bitC, bitV] s t)

/-- From every state, with every operand, MUL completes: Rd is the low 32 bits of the product (of the signed and of
the unsigned reading alike), N and Z from it, C = 0, V and everything else unchanged; after the opcode read some
number of internal cycles, left free, and the PC advances. V kept is the spec's decision D28. (42_thumb04_alu.md R184,
40_pipeline_shifter_flags.md R141, 92_eei_decisions.md D28) -/
def Obligations.MulLowWord : Prop :=
  ∀ (rd rs : LowReg) (s : State), Encodes (0b0100001101#10 ++ lowBits rs ++ lowBits rd) (.mulAlu rd rs) ∧
    ∃ t m r, exec (.mulAlu rd rs) s = .next t ∧ t.reg (low rd) = r ∧
      r = BitVec.ofNat 32 ((s.reg (low rd)).toNat * (s.reg (low rs)).toNat) ∧
      r = BitVec.ofInt 32 ((s.reg (low rd)).toInt * (s.reg (low rs)).toInt) ∧
      SetsNZ r t ∧ psrC t.cpsr = false ∧
      Frame [pcReg, low rd] [bitN, bitZ, bitC] [prefetchEvent .t4 s, .internal m] s t ∧
      SameMemory s t ∧ Advances s s t

/-- From every state, ADD and MOV between any two of R0 to R15 complete and write no flag; the source R15 is read with
bit 0 cleared. A destination other than R15 gets the sum or the value and the PC advances; for R15 the THUMB pipeline
is refilled at the result with bit 0 cleared and T is kept. That bit 0 is cleared is the spec's decision D12.
(43_thumb05_hireg_bx.md R200, R201, R203, 92_eei_decisions.md D12, D36) -/
def Obligations.HighAddMove : Prop :=
  ∀ (rd rs : Reg) (s : State) (b : Word),
    b = (if rs = pcReg then s.reg pcReg &&& 0xFFFFFFFE else s.reg rs) →
    Encodes (0b01000100#8 ++ highBit rd ++ highBit rs ++ lowThree rs ++ lowThree rd) (.addHi rd rs) ∧ Encodes (0b01000110#8 ++ highBit rd ++ highBit rs ++ lowThree rs ++ lowThree rd) (.movHi rd rs) ∧
    (rd ≠ pcReg →
      (∃ t, exec (.addHi rd rs) s = .next t ∧ t.reg rd = s.reg rd + b ∧ Quiet .t5 [rd] [] s t) ∧
      ∃ t, exec (.movHi rd rs) s = .next t ∧ t.reg rd = b ∧ Quiet .t5 [rd] [] s t) ∧
    (rd = pcReg → ∀ target,
      (target = (s.reg pcReg + b) &&& 0xFFFFFFFE →
        ∃ t, exec (.addHi rd rs) s = .next t ∧ RefillsThumb target (deadSlot s) (s.after [prefetchEvent .t5 s]) t ∧ SameMemory s t ∧
          Frame [pcReg] [] (prefetchEvent .t5 s :: refillThumbEvents target) s t) ∧
      (target = b &&& 0xFFFFFFFE →
        ∃ t, exec (.movHi rd rs) s = .next t ∧ RefillsThumb target (deadSlot s) (s.after [prefetchEvent .t5 s]) t ∧ SameMemory s t ∧
          Frame [pcReg] [] (prefetchEvent .t5 s :: refillThumbEvents target) s t))

/-- From every state, CMP between any two of R0 to R15, R15 included, completes: N, Z, C, V of Rd minus the source
(R15 read with bit 0 cleared), no register written, always advancing; everything else unchanged. (R202) -/
def Obligations.HighCompare : Prop :=
  ∀ (rd rs : Reg) (s : State), Encodes (0b01000101#8 ++ highBit rd ++ highBit rs ++ lowThree rs ++ lowThree rd) (.cmpHi rd rs) ∧
    ∃ t r, exec (.cmpHi rd rs) s = .next t ∧
      r = subFlags (s.reg rd) (if rs = pcReg then s.reg pcReg &&& 0xFFFFFFFE else s.reg rs) ∧
      SetsNZ r.value t ∧ psrC t.cpsr = r.carry ∧ psrV t.cpsr = r.overflow ∧
      Quiet .t5 [] [bitN, bitZ, bitC, bitV] s t

/-- From every state, BX of any register (R15 included, its ignored bits at any value) completes: with bit 0 of the
operand set, the THUMB pipeline is refilled at the operand with bit 0 cleared and the CPSR is unchanged; with it
clear, T becomes 0, no other CPSR bit changes, and the pipeline is refilled in ARM state at the operand with bits 1:0
cleared. Nothing else changes. (R204) -/
def Obligations.BranchExchange : Prop :=
  ∀ (rs : Reg) (h1 : BitVec 1) (rdBits : BitVec 3) (s : State) (b : Word),
    b = (if rs = pcReg then s.reg pcReg &&& 0xFFFFFFFE else s.reg rs) →
    Encodes (0b01000111#8 ++ h1 ++ highBit rs ++ lowThree rs ++ rdBits) (.bx rs h1 rdBits) ∧
    (b.getLsbD 0 = true → ∃ t, exec (.bx rs h1 rdBits) s = .next t ∧
      RefillsThumb (b &&& 0xFFFFFFFE) (deadSlot s) (s.after [prefetchEvent .t5 s]) t ∧ SameMemory s t ∧
      Frame [pcReg] [] (prefetchEvent .t5 s :: refillThumbEvents (b &&& 0xFFFFFFFE)) s t) ∧
    (b.getLsbD 0 = false → ∃ t, exec (.bx rs h1 rdBits) s = .next t ∧ psrT t.cpsr = false ∧
      RefillsArm (b &&& 0xFFFFFFFC) (deadSlot s) (s.after [prefetchEvent .t5 s]) t ∧ SameMemory s t ∧
      Frame [pcReg] [5] (prefetchEvent .t5 s :: refillArmEvents (b &&& 0xFFFFFFFC)) s t)

/-- From every state, LDR Rd, [PC, #imm] completes: Rd is the word read (with ROTATE) at (x[15] with bit 1 cleared) +
4·imm8; flags, memory and everything else unchanged; the opcode read, the data read tagged NONSEQ, one internal cycle,
and the PC advances. With an even x[15] the address is word-aligned and the tag rotates nothing. (R211) -/
def Obligations.LoadPcRelative : Prop :=
  ∀ (rd : LowReg) (imm8 : BitVec 8) (s : State),
    (Encodes (0b01001#5 ++ lowBits rd ++ imm8) (.ldrPc rd imm8) ∧
      ∃ t, exec (.ldrPc rd imm8) s = .next t ∧ t.reg (low rd) = (s.after [prefetchEvent .t6 s]).load ((s.reg pcReg &&& 0xFFFFFFFD) + (imm8.setWidth 32 <<< 2)) .word .rotate ∧
        Frame [pcReg, low rd] [] [prefetchEvent .t6 s, .read ((s.reg pcReg &&& 0xFFFFFFFD) + (imm8.setWidth 32 <<< 2)) .word .nonseq .rotate, .internal 1] s t ∧
        SameMemory s t ∧ Advances s s t) ∧
    ((s.reg pcReg).getLsbD 0 = false → ∀ a, a = (s.reg pcReg &&& 0xFFFFFFFD) + (imm8.setWidth 32 <<< 2) →
      a.extractLsb' 0 2 = 0 ∧ ∀ b : State, b.load a .word .rotate = b.load a .word .plain)

/-- From every state, with every operand (Rd equal to Rb or Ro included), the five loads complete: Rd is the value
read at Rb + Ro (old values) with the width and tag of the rule; flags, memory and everything else unchanged; the
opcode read, the data read tagged NONSEQ, one internal cycle, and the PC advances. (R214, R215, R217, R218, R219) -/
def Obligations.LoadRegisterOffset : Prop :=
  ∀ (rd rb ro : LowReg) (s : State),
    (Encodes (0b0101100#7 ++ lowBits ro ++ lowBits rb ++ lowBits rd) (.ldrRo rd rb ro) ∧
      ∃ t, exec (.ldrRo rd rb ro) s = .next t ∧ t.reg (low rd) = (s.after [prefetchEvent .t7 s]).load (s.reg (low rb) + s.reg (low ro)) .word .rotate ∧
        Frame [pcReg, low rd] [] [prefetchEvent .t7 s, .read (s.reg (low rb) + s.reg (low ro)) .word .nonseq .rotate, .internal 1] s t ∧
        SameMemory s t ∧ Advances s s t) ∧
    (Encodes (0b0101110#7 ++ lowBits ro ++ lowBits rb ++ lowBits rd) (.ldrbRo rd rb ro) ∧
      ∃ t, exec (.ldrbRo rd rb ro) s = .next t ∧ t.reg (low rd) = (s.after [prefetchEvent .t7 s]).load (s.reg (low rb) + s.reg (low ro)) .byte .plain ∧
        Frame [pcReg, low rd] [] [prefetchEvent .t7 s, .read (s.reg (low rb) + s.reg (low ro)) .byte .nonseq .plain, .internal 1] s t ∧
        SameMemory s t ∧ Advances s s t) ∧
    (Encodes (0b0101011#7 ++ lowBits ro ++ lowBits rb ++ lowBits rd) (.ldsbRo rd rb ro) ∧
      ∃ t, exec (.ldsbRo rd rb ro) s = .next t ∧ t.reg (low rd) = (s.after [prefetchEvent .t8 s]).load (s.reg (low rb) + s.reg (low ro)) .byte .signed ∧
        Frame [pcReg, low rd] [] [prefetchEvent .t8 s, .read (s.reg (low rb) + s.reg (low ro)) .byte .nonseq .signed, .internal 1] s t ∧
        SameMemory s t ∧ Advances s s t) ∧
    (Encodes (0b0101101#7 ++ lowBits ro ++ lowBits rb ++ lowBits rd) (.ldrhRo rd rb ro) ∧
      ∃ t, exec (.ldrhRo rd rb ro) s = .next t ∧ t.reg (low rd) = (s.after [prefetchEvent .t8 s]).load (s.reg (low rb) + s.reg (low ro)) .half .rotate ∧
        Frame [pcReg, low rd] [] [prefetchEvent .t8 s, .read (s.reg (low rb) + s.reg (low ro)) .half .nonseq .rotate, .internal 1] s t ∧
        SameMemory s t ∧ Advances s s t) ∧
    (Encodes (0b0101111#7 ++ lowBits ro ++ lowBits rb ++ lowBits rd) (.ldshRo rd rb ro) ∧
      ∃ t, exec (.ldshRo rd rb ro) s = .next t ∧ t.reg (low rd) = (s.after [prefetchEvent .t8 s]).load (s.reg (low rb) + s.reg (low ro)) .half .signed ∧
        Frame [pcReg, low rd] [] [prefetchEvent .t8 s, .read (s.reg (low rb) + s.reg (low ro)) .half .nonseq .signed, .internal 1] s t ∧
        SameMemory s t ∧ Advances s s t)

/-- From every state, with every operand (Rd = Rb included), the three loads complete: Rd is the value read at Rb +
4·imm5, Rb + imm5, Rb + 2·imm5; flags, memory and everything else unchanged; the opcode read, the data read tagged
NONSEQ, and the PC advances. (R221, R223, R225) -/
def Obligations.LoadImmediateOffset : Prop :=
  ∀ (rd rb : LowReg) (imm5 : BitVec 5) (s : State),
    (Encodes (0b01101#5 ++ imm5 ++ lowBits rb ++ lowBits rd) (.ldrImm rd rb imm5) ∧
      ∃ t, exec (.ldrImm rd rb imm5) s = .next t ∧ t.reg (low rd) = (s.after [prefetchEvent .t9 s]).load (s.reg (low rb) + (imm5.setWidth 32 <<< 2)) .word .rotate ∧
        Frame [pcReg, low rd] [] [prefetchEvent .t9 s, .read (s.reg (low rb) + (imm5.setWidth 32 <<< 2)) .word .nonseq .rotate] s t ∧
        SameMemory s t ∧ Advances s s t) ∧
    (Encodes (0b01111#5 ++ imm5 ++ lowBits rb ++ lowBits rd) (.ldrbImm rd rb imm5) ∧
      ∃ t, exec (.ldrbImm rd rb imm5) s = .next t ∧ t.reg (low rd) = (s.after [prefetchEvent .t9 s]).load (s.reg (low rb) + imm5.setWidth 32) .byte .plain ∧
        Frame [pcReg, low rd] [] [prefetchEvent .t9 s, .read (s.reg (low rb) + imm5.setWidth 32) .byte .nonseq .plain] s t ∧
        SameMemory s t ∧ Advances s s t) ∧
    (Encodes (0b10001#5 ++ imm5 ++ lowBits rb ++ lowBits rd) (.ldrhImm rd rb imm5) ∧
      ∃ t, exec (.ldrhImm rd rb imm5) s = .next t ∧ t.reg (low rd) = (s.after [prefetchEvent .t10 s]).load (s.reg (low rb) + (imm5.setWidth 32 <<< 1)) .half .rotate ∧
        Frame [pcReg, low rd] [] [prefetchEvent .t10 s, .read (s.reg (low rb) + (imm5.setWidth 32 <<< 1)) .half .nonseq .rotate] s t ∧
        SameMemory s t ∧ Advances s s t)

/-- From every state with canonical memory, with every operand, the three stores complete: the low 4, 1, 2 bytes of Rd
are written at Rb + Ro with its low bits cleared and, where that is read-write memory, stand there; every other byte
of memory is unchanged, and so is every register but the PC, every flag and everything else; the opcode read, the
write tagged NONSEQ, and the PC advances. That memory changes only where the address is read-write memory is the
model's choice (log 5). (44_thumb06_11_load_store.md R212, R213, R216) -/
def Obligations.StoreRegisterOffset : Prop :=
  ∀ (rd rb ro : LowReg) (s : State), s.mem.wf = true →
    (Encodes (0b0101000#7 ++ lowBits ro ++ lowBits rb ++ lowBits rd) (.strRo rd rb ro) ∧
      ∃ t, exec (.strRo rd rb ro) s = .next t ∧ Stored (s.reg (low rb) + s.reg (low ro)) .word (s.reg (low rd)) s t ∧
        Frame [pcReg] [] [prefetchEvent .t7 s, .write (s.reg (low rb) + s.reg (low ro)) .word (Width.trunc .word (s.reg (low rd))) .nonseq] s t ∧
        Advances s s t) ∧
    (Encodes (0b0101010#7 ++ lowBits ro ++ lowBits rb ++ lowBits rd) (.strbRo rd rb ro) ∧
      ∃ t, exec (.strbRo rd rb ro) s = .next t ∧ Stored (s.reg (low rb) + s.reg (low ro)) .byte (s.reg (low rd)) s t ∧
        Frame [pcReg] [] [prefetchEvent .t7 s, .write (s.reg (low rb) + s.reg (low ro)) .byte (Width.trunc .byte (s.reg (low rd))) .nonseq] s t ∧
        Advances s s t) ∧
    (Encodes (0b0101001#7 ++ lowBits ro ++ lowBits rb ++ lowBits rd) (.strhRo rd rb ro) ∧
      ∃ t, exec (.strhRo rd rb ro) s = .next t ∧ Stored (s.reg (low rb) + s.reg (low ro)) .half (s.reg (low rd)) s t ∧
        Frame [pcReg] [] [prefetchEvent .t8 s, .write (s.reg (low rb) + s.reg (low ro)) .half (Width.trunc .half (s.reg (low rd))) .nonseq] s t ∧
        Advances s s t)

/-- From every state with canonical memory, with every operand, the three stores complete: the low 4, 1, 2 bytes of Rd
are written at Rb + 4·imm5, Rb + imm5, Rb + 2·imm5 with the low bits cleared and, where that is read-write memory,
stand there; every other byte of memory is unchanged, and so is every register but the PC, every flag and everything
else; the opcode read, the write tagged NONSEQ, and the PC advances. That memory changes only where the address is
read-write memory is the model's choice (log 5). (44_thumb06_11_load_store.md R220, R222, R224) -/
def Obligations.StoreImmediateOffset : Prop :=
  ∀ (rd rb : LowReg) (imm5 : BitVec 5) (s : State), s.mem.wf = true →
    (Encodes (0b01100#5 ++ imm5 ++ lowBits rb ++ lowBits rd) (.strImm rd rb imm5) ∧
      ∃ t, exec (.strImm rd rb imm5) s = .next t ∧ Stored (s.reg (low rb) + (imm5.setWidth 32 <<< 2)) .word (s.reg (low rd)) s t ∧
        Frame [pcReg] [] [prefetchEvent .t9 s, .write (s.reg (low rb) + (imm5.setWidth 32 <<< 2)) .word (Width.trunc .word (s.reg (low rd))) .nonseq] s t ∧
        Advances s s t) ∧
    (Encodes (0b01110#5 ++ imm5 ++ lowBits rb ++ lowBits rd) (.strbImm rd rb imm5) ∧
      ∃ t, exec (.strbImm rd rb imm5) s = .next t ∧ Stored (s.reg (low rb) + imm5.setWidth 32) .byte (s.reg (low rd)) s t ∧
        Frame [pcReg] [] [prefetchEvent .t9 s, .write (s.reg (low rb) + imm5.setWidth 32) .byte (Width.trunc .byte (s.reg (low rd))) .nonseq] s t ∧
        Advances s s t) ∧
    (Encodes (0b10000#5 ++ imm5 ++ lowBits rb ++ lowBits rd) (.strhImm rd rb imm5) ∧
      ∃ t, exec (.strhImm rd rb imm5) s = .next t ∧ Stored (s.reg (low rb) + (imm5.setWidth 32 <<< 1)) .half (s.reg (low rd)) s t ∧
        Frame [pcReg] [] [prefetchEvent .t10 s, .write (s.reg (low rb) + (imm5.setWidth 32 <<< 1)) .half (Width.trunc .half (s.reg (low rd))) .nonseq] s t ∧
        Advances s s t)

/-- From every state with canonical memory, STR and LDR Rd, [SP, #imm] complete at SP + 4·imm8: STR writes the word
(where SP + 4·imm8 is read-write memory its bytes stand there) and changes no other byte, and its prefetch reads the
bus after the store; LDR loads the word read with ROTATE and changes no byte. The data access, tagged NONSEQ, precedes
the opcode read; SP, flags and everything else are unchanged, and the PC advances. That memory changes only where the
address is read-write memory is the model's choice (log 5). (44_thumb06_11_load_store.md R226, R227) -/
def Obligations.StackRelative : Prop :=
  ∀ (rd : LowReg) (imm8 : BitVec 8) (s : State) (a : Word), a = s.reg spReg + (imm8.setWidth 32 <<< 2) → s.mem.wf = true →
    (Encodes (0b10010#5 ++ lowBits rd ++ imm8) (.strSp rd imm8) ∧
      ∃ t, exec (.strSp rd imm8) s = .next t ∧ Stored a .word (s.reg (low rd)) s t ∧
        Frame [pcReg] [] [.write a .word (s.reg (low rd)) .nonseq, prefetchEvent .t11 s] s t ∧
        Advances (s.store a .word (s.reg (low rd)) .nonseq) s t) ∧
    (Encodes (0b10011#5 ++ lowBits rd ++ imm8) (.ldrSp rd imm8) ∧
      ∃ t, exec (.ldrSp rd imm8) s = .next t ∧ t.reg (low rd) = s.load a .word .rotate ∧
        Frame [pcReg, low rd] [] [.read a .word .nonseq .rotate, prefetchEvent .t11 s] s t ∧
        SameMemory s t ∧ Advances (s.after [.read a .word .nonseq .rotate]) s t)

/-- From every state, with every operand, the four instructions complete: Rd is (x[15] with bit 1 cleared) + 4·imm8 or
SP + 4·imm8; SP is SP + 4·imm7 or SP - 4·imm7; no flag is written and everything else is unchanged; one opcode read,
and the PC advances. With an even x[15] the PC form gives a multiple of 4. (R240, R241, R242, R243) -/
def Obligations.AddressArithmetic : Prop :=
  ∀ (rd : LowReg) (imm8 : BitVec 8) (imm7 : BitVec 7) (s : State),
    (Encodes (0b10100#5 ++ lowBits rd ++ imm8) (.addPc rd imm8) ∧
      ∃ t, exec (.addPc rd imm8) s = .next t ∧ t.reg (low rd) = (s.reg pcReg &&& 0xFFFFFFFD) + (imm8.setWidth 32 <<< 2) ∧ Quiet .t12 [low rd] [] s t) ∧
    (Encodes (0b10101#5 ++ lowBits rd ++ imm8) (.addSp rd imm8) ∧
      ∃ t, exec (.addSp rd imm8) s = .next t ∧ t.reg (low rd) = s.reg spReg + (imm8.setWidth 32 <<< 2) ∧ Quiet .t12 [low rd] [] s t) ∧
    (Encodes (0b101100000#9 ++ imm7) (.incSp imm7) ∧
      ∃ t, exec (.incSp imm7) s = .next t ∧ t.reg spReg = s.reg spReg + (imm7.setWidth 32 <<< 2) ∧ Quiet .t13 [spReg] [] s t) ∧
    (Encodes (0b101100001#9 ++ imm7) (.decSp imm7) ∧
      ∃ t, exec (.decSp imm7) s = .next t ∧ t.reg spReg = s.reg spReg - (imm7.setWidth 32 <<< 2) ∧ Quiet .t13 [spReg] [] s t) ∧
    ((s.reg pcReg).getLsbD 0 = false →
      ((s.reg pcReg &&& 0xFFFFFFFD) + (imm8.setWidth 32 <<< 2) : Word).extractLsb' 0 2 = 0)

/-- From every state with canonical memory, PUSH of a non-empty list completes: SP is lowered once by 4n; each listed
register is written at its place above the new SP, the lowest lowest, LR last, and stands there where that is read-
write memory; every byte outside those n aligned words is unchanged, and so is every register but SP and PC, every
flag and everything else; the opcode read comes first, then n writes in ascending order, the first NONSEQ, the others
SEQ; the PC advances. That memory changes only where the address is read-write memory is the model's choice (log 5).
(46_thumb14_15_multiple.md R251) -/
def Obligations.PushStores : Prop :=
  ∀ (lr : Bool) (rlist : BitVec 8) (s : State) (n : Nat) (a : Word), s.mem.wf = true → lr = true ∨ rlist ≠ 0 →
    n = popcount rlist + lr.toNat → a = s.reg spReg - BitVec.ofNat 32 (4 * n) →
    Encodes (0b1011010#7 ++ BitVec.ofBool lr ++ rlist) (.push lr rlist) ∧
    ∃ t writes, exec (.push lr rlist) s = .next t ∧ t.reg spReg = a ∧
      (∀ i : LowReg, rlist.getLsbD i = true →
        (s.kindAt (wordAt a (rank rlist i)) = .ram → readWord t.mem (wordAt a (rank rlist i)) = s.reg (low i)) ∧
        writes[rank rlist i]? = some (.write (wordAt a (rank rlist i)) .word (s.reg (low i)) (transferTag (rank rlist i)))) ∧
      (lr = true →
        (s.kindAt (wordAt a (popcount rlist)) = .ram → readWord t.mem (wordAt a (popcount rlist)) = s.reg lrReg) ∧
        writes[popcount rlist]? =
          some (.write (wordAt a (popcount rlist)) .word (s.reg lrReg) (transferTag (popcount rlist)))) ∧
      writes.length = n ∧ SameOutsideWords a n s t ∧
      Frame [pcReg, spReg] [] (prefetchEvent .t14 s :: writes) s t ∧ Advances s s t

/-- From every state, POP of a non-empty list completes: each listed register is the aligned word that the bus answers
at its place from SP, SP is raised by 4n, memory, flags and every other register are unchanged; the opcode read comes
first, then n reads ascending, the first NONSEQ, the others SEQ. Without the PC the PC advances; with it the pipeline
is refilled in THUMB state at the last word read with bit 0 cleared. (R253) -/
def Obligations.PopLoads : Prop :=
  ∀ (pc : Bool) (rlist : BitVec 8) (s : State) (n : Nat) (base : Word), pc = true ∨ rlist ≠ 0 →
    n = popcount rlist + pc.toNat → base = s.reg spReg →
    Encodes (0b1011110#7 ++ BitVec.ofBool pc ++ rlist) (.pop pc rlist) ∧
    ∃ t ending, exec (.pop pc rlist) s = .next t ∧ t.reg spReg = base + BitVec.ofNat 32 (4 * n) ∧
      (∀ i : LowReg, rlist.getLsbD i = true → t.reg (low i) =
        (s.after (prefetchEvent .t14 s :: wordReads base (rank rlist i))).load (wordAt base (rank rlist i)) .word .plain) ∧
      Frame (pcReg :: spReg :: listed rlist) [] (prefetchEvent .t14 s :: (wordReads base n ++ ending)) s t ∧
      SameMemory s t ∧
      (pc = false → ending = [] ∧ Advances s s t) ∧
      (pc = true → ∀ target, target =
          (s.after (prefetchEvent .t14 s :: wordReads base (popcount rlist))).load (wordAt base (popcount rlist))
            .word .plain &&& 0xFFFFFFFE →
        ending = refillThumbEvents target ∧
          RefillsThumb target (deadSlot s) (s.after (prefetchEvent .t14 s :: wordReads base n)) t)

/-- From every state with canonical memory, STMIA of a non-empty list completes: each listed register is written at
its place from the base, a listed base as its old value if it is the lowest of the list, else as base + 4n, and stands
there where that is read-write memory; the base register is base + 4n; every byte outside those n aligned words is
unchanged, and so is every other register, flag and everything else; the opcode read comes first, then n writes
ascending, the first NONSEQ, the others SEQ; the PC advances. That memory changes only where the address is read-write
memory is the model's choice (log 5). (46_thumb14_15_multiple.md R254) -/
def Obligations.StoreMultiple : Prop :=
  ∀ (rb : LowReg) (rlist : BitVec 8) (s : State) (n : Nat) (base : Word), s.mem.wf = true → rlist ≠ 0 →
    n = popcount rlist → base = s.reg (low rb) →
    Encodes (0b11000#5 ++ lowBits rb ++ rlist) (.stmia rb rlist) ∧
    ∃ t writes, exec (.stmia rb rlist) s = .next t ∧ t.reg (low rb) = base + BitVec.ofNat 32 (4 * n) ∧
      (∀ (i : LowReg) (v : Word), rlist.getLsbD i = true →
        v = (if i = rb ∧ rank rlist i ≠ 0 then base + BitVec.ofNat 32 (4 * n) else s.reg (low i)) →
        (s.kindAt (wordAt base (rank rlist i)) = .ram → readWord t.mem (wordAt base (rank rlist i)) = v) ∧
        writes[rank rlist i]? = some (.write (wordAt base (rank rlist i)) .word v (transferTag (rank rlist i)))) ∧
      writes.length = n ∧ SameOutsideWords base n s t ∧
      Frame [pcReg, low rb] [] (prefetchEvent .t15 s :: writes) s t ∧ Advances s s t

/-- From every state, LDMIA of a non-empty list completes: each listed register is the aligned word that the bus
answers at its place from the old base; a base not in the list becomes base + 4n; memory, flags and everything else
are unchanged; the opcode read comes first, then n reads ascending, the first NONSEQ, the others SEQ; the PC advances.
(R255) -/
def Obligations.LoadMultiple : Prop :=
  ∀ (rb : LowReg) (rlist : BitVec 8) (s : State) (n : Nat) (base : Word), rlist ≠ 0 →
    n = popcount rlist → base = s.reg (low rb) →
    Encodes (0b11001#5 ++ lowBits rb ++ rlist) (.ldmia rb rlist) ∧
    ∃ t, exec (.ldmia rb rlist) s = .next t ∧
      (∀ i : LowReg, rlist.getLsbD i = true → t.reg (low i) =
        (s.after (prefetchEvent .t15 s :: wordReads base (rank rlist i))).load (wordAt base (rank rlist i)) .word .plain) ∧
      (rlist.getLsbD rb = false → t.reg (low rb) = base + BitVec.ofNat 32 (4 * n)) ∧
      Frame (pcReg :: low rb :: listed rlist) []
        (prefetchEvent .t15 s :: wordReads base n) s t ∧
      SameMemory s t ∧ Advances s s t

/-- Every opcode whose op[15:8] is one of the nineteen reserved values decodes to a reserved term, and that faults
with reservedEncoding from every state; PUSH, POP, STMIA and LDMIA with an empty list (PUSH and POP without the R bit)
fault with emptyRegisterList from every state. By the spec's decisions D10, D11. (47_thumb16_19_branch_swi.md R275,
46_thumb14_15_multiple.md R252, R256, 92_eei_decisions.md D10, D11) -/
def Obligations.UnspecifiedOpcodesFault : Prop :=
  (∀ op : Opcode, (op.extractLsb' 8 8).toNat ∈
      [0xB1, 0xB2, 0xB3, 0xB6, 0xB7, 0xB8, 0xB9, 0xBA, 0xBB, 0xBE, 0xBF,
       0xE8, 0xE9, 0xEA, 0xEB, 0xEC, 0xED, 0xEE, 0xEF] → decodeOp op = .reserved op) ∧
  (∀ (op : Opcode) (s : State), exec (.reserved op) s = .fault .reservedEncoding) ∧
  ∀ (rb : LowReg) (s : State), exec (.push false 0) s = .fault .emptyRegisterList ∧
    exec (.pop false 0) s = .fault .emptyRegisterList ∧ exec (.stmia rb 0) s = .fault .emptyRegisterList ∧
    exec (.ldmia rb 0) s = .fault .emptyRegisterList

/-- For each of the fourteen conditions, from every state and with every offset, the branch completes: if the
condition passes, the THUMB pipeline is refilled at x[15] + 2·imm8 (signed); if not, the PC advances. No flag,
register but the PC, or byte of memory changes; the opcode read of A + 4 is made either way; from an even x[15] the
target is even. (R260) -/
def Obligations.ConditionalBranch : Prop :=
  ∀ (imm8 : BitVec 8) (s : State) (op : Opcode) (i : Instr) (c : Cond), (op, i, c) ∈
    [(0b11010000#8 ++ imm8, Instr.beq imm8, Cond.eq),
     (0b11010001#8 ++ imm8, Instr.bne imm8, Cond.ne),
     (0b11010010#8 ++ imm8, Instr.bcs imm8, Cond.cs),
     (0b11010011#8 ++ imm8, Instr.bcc imm8, Cond.cc),
     (0b11010100#8 ++ imm8, Instr.bmi imm8, Cond.mi),
     (0b11010101#8 ++ imm8, Instr.bpl imm8, Cond.pl),
     (0b11010110#8 ++ imm8, Instr.bvs imm8, Cond.vs),
     (0b11010111#8 ++ imm8, Instr.bvc imm8, Cond.vc),
     (0b11011000#8 ++ imm8, Instr.bhi imm8, Cond.hi),
     (0b11011001#8 ++ imm8, Instr.bls imm8, Cond.ls),
     (0b11011010#8 ++ imm8, Instr.bge imm8, Cond.ge),
     (0b11011011#8 ++ imm8, Instr.blt imm8, Cond.lt),
     (0b11011100#8 ++ imm8, Instr.bgt imm8, Cond.gt),
     (0b11011101#8 ++ imm8, Instr.ble imm8, Cond.le)] →
    Encodes op i ∧
    (condPassed s.cpsr c = true → ∀ target, target = s.reg pcReg + (imm8.signExtend 32 <<< 1) →
      ∃ t, exec i s = .next t ∧ RefillsThumb target (deadSlot s) (s.after [prefetchEvent .t16 s]) t ∧
        SameMemory s t ∧ Frame [pcReg] [] (prefetchEvent .t16 s :: refillThumbEvents target) s t) ∧
    (condPassed s.cpsr c = false → ∃ t, exec i s = .next t ∧ Quiet .t16 [] [] s t) ∧
    ((s.reg pcReg).getLsbD 0 = false → (s.reg pcReg + (imm8.signExtend 32 <<< 1)).getLsbD 0 = false)

/-- BAL, from every state and with every offset, completes: the THUMB pipeline is refilled at x[15] + 2·imm8 (signed),
and nothing else changes. That 0xDExx branches is the spec's decision D35. (47_thumb16_19_branch_swi.md R261,
92_eei_decisions.md D35) -/
def Obligations.BranchAlways8 : Prop :=
  ∀ (imm8 : BitVec 8) (s : State) (target : Word), target = s.reg pcReg + (imm8.signExtend 32 <<< 1) →
    Encodes (0b11011110#8 ++ imm8) (.bal imm8) ∧ ∃ t, exec (.bal imm8) s = .next t ∧
      RefillsThumb target (deadSlot s) (s.after [prefetchEvent .t16 s]) t ∧
      SameMemory s t ∧ Frame [pcReg] [] (prefetchEvent .t16 s :: refillThumbEvents target) s t

/-- B, from every state and with every offset, completes: the THUMB pipeline is refilled at x[15] + 2·imm11 (signed);
LR, flags, memory and everything else unchanged; from an even x[15] the target is even. (R268) -/
def Obligations.Branch : Prop :=
  ∀ (imm11 : BitVec 11) (s : State) (target : Word), target = s.reg pcReg + (imm11.signExtend 32 <<< 1) →
    Encodes (0b11100#5 ++ imm11) (.b imm11) ∧ ∃ t, exec (.b imm11) s = .next t ∧
      RefillsThumb target (deadSlot s) (s.after [prefetchEvent .t18 s]) t ∧
      SameMemory s t ∧ Frame [pcReg] [] (prefetchEvent .t18 s :: refillThumbEvents target) s t ∧
      ((s.reg pcReg).getLsbD 0 = false → target.getLsbD 0 = false)

/-- BL_HI, from every state, completes: LR is x[15] + the sign-extended imm11 times 4096, and nothing else changes but
the PC, which advances. The sign bit is the spec's decision D30. (47_thumb16_19_branch_swi.md R270, 90_conflicts.md
C9, 92_eei_decisions.md D30) -/
def Obligations.BranchLinkFirst : Prop :=
  ∀ (imm11 : BitVec 11) (s : State), Encodes (0b11110#5 ++ imm11) (.blHi imm11) ∧
    ∃ t, exec (.blHi imm11) s = .next t ∧ t.reg lrReg = s.reg pcReg + BitVec.ofInt 32 (imm11.toInt * 4096) ∧
      Quiet .t19 [lrReg] [] s t

/-- BL_LO, from every state, completes: the THUMB pipeline is refilled at (old LR + 2·imm11) with bit 0 cleared, LR is
(x[15] - 2) with bit 0 set, and nothing else changes. (R271) -/
def Obligations.BranchLinkSecond : Prop :=
  ∀ (imm11 : BitVec 11) (s : State) (target : Word),
    target = (s.reg lrReg + (imm11.setWidth 32 <<< 1)) &&& 0xFFFFFFFE →
    Encodes (0b11111#5 ++ imm11) (.blLo imm11) ∧ ∃ t, exec (.blLo imm11) s = .next t ∧ t.reg lrReg = (s.reg pcReg - 2) ||| 1 ∧
      RefillsThumb target (deadSlot s) (s.after [prefetchEvent .t19 s]) t ∧ SameMemory s t ∧
      Frame [pcReg, lrReg] [] (prefetchEvent .t19 s :: refillThumbEvents target) s t

/-- For every label at an even offset of 23 bits from A + 4, BL_HI with offset[22:12] then BL_LO with offset[11:1] end
with the THUMB pipeline refilled at the label and LR = (A + 4) | 1; every other register, the CPSR and memory are
unchanged. Started with an even x[15]. (47_thumb16_19_branch_swi.md R272, R270, R271) -/
def Obligations.BranchLinkPair : Prop :=
  ∀ (offset : BitVec 23) (s t u : State), offset.getLsbD 0 = false → (s.reg pcReg).getLsbD 0 = false →
    exec (.blHi (offset.extractLsb' 12 11)) s = .next t → exec (.blLo (offset.extractLsb' 1 11)) t = .next u →
    RefillsThumb (s.reg pcReg + offset.signExtend 32) (deadSlot t) (t.after [prefetchEvent .t19 t]) u ∧ u.reg lrReg = s.reg pcReg ||| 1 ∧
    (∀ r, r ≠ pcReg → r ≠ lrReg → u.reg r = s.reg r) ∧ u.cpsr = s.cpsr ∧ u.regions = s.regions ∧ SameMemory s u

/-- For every instruction but SWI, BX included: the flags it does not have in R28's list keep their values, LSL #0 and
register shifts by 0 keep C, and MUL clears C. SWI changes no flag either. (10_state.md R28) -/
def Obligations.OnlyListedFlagsChange : Prop :=
  ∀ (i : Instr) (s t : State), exec i s = .next t →
    (∀ k, 28 ≤ k → k ∉ flagBitsOf i → t.cpsr.getLsbD k = s.cpsr.getLsbD k) ∧
    (∀ rd rs, i = .lslImm rd rs 0 → psrC t.cpsr = psrC s.cpsr) ∧
    (∀ rd rs, i = .lslAlu rd rs ∨ i = .lsrAlu rd rs ∨ i = .asrAlu rd rs ∨ i = .rorAlu rd rs →
      (s.reg (low rs)).setWidth 8 = 0#8 → psrC t.cpsr = psrC s.cpsr) ∧
    (∀ rd rs, i = .mulAlu rd rs → psrC t.cpsr = false)

/-- For every instruction that completes: the reserved bits and F never change; unless it is SWI, M, I, every banked
slot and every SPSR are unchanged; T changes only from a BX or SWI, and no instruction sets it from 0 to 1; only the
stores, PUSH and STMIA change memory, and none changes the map of the bus (the map is the model's, log 5).
(10_state.md R27, R29, R30, R31, R32, 60_exceptions.md R311, R312) -/
def Obligations.ControlBitsProtected : Prop :=
  ∀ (i : Instr) (s t : State), exec i s = .next t →
    (∀ k, 8 ≤ k → k < 28 → t.cpsr.getLsbD k = s.cpsr.getLsbD k) ∧ psrF t.cpsr = psrF s.cpsr ∧
    (psrT s.cpsr = false → psrT t.cpsr = false) ∧
    (psrT t.cpsr ≠ psrT s.cpsr → (∃ rs h1 d, i = .bx rs h1 d) ∨ ∃ c, i = .swi c) ∧
    ((∀ c, i ≠ .swi c) → psrM t.cpsr = psrM s.cpsr ∧ psrI t.cpsr = psrI s.cpsr ∧ t.bank = s.bank ∧ t.spsr = s.spsr) ∧
    t.regions = s.regions ∧ (t.mem ≠ s.mem → i.mnemonic ∈ ["STR_Rd___Rb__Ro", "STRB_Rd___Rb__Ro", "STRH_Rd___Rb__Ro",
      "STR_Rd___Rb___imm5_4", "STRB_Rd___Rb___imm5", "STRH_Rd___Rb___imm5_2", "STR_Rd___SP___imm8_4",
      "PUSH__rlist___LR", "STMIA_Rb____rlist"])

/-- Changing only the mode number of a state changes only the mode number of an instruction's outcome, for every
instruction but SWI: no instruction is privileged, and none reads the mode. (60_exceptions.md R312, 10_state.md R31)
-/
def Obligations.ModeHasNoEffect : Prop :=
  ∀ (i : Instr) (s : State) (m : BitVec 5), (∀ c, i ≠ .swi c) →
    exec i (s.withMode m) = mapNext (State.withMode m) (exec i s)

/-- After a load or store of THUMB.7 to THUMB.11 or THUMB.15, or PUSH, the opcode the next step executes is the one
that stood in the following slot before it, whatever was stored; and the slot after that holds what the bus answers at
A + 4 before the data access, except that after THUMB.11 it holds what it answers there afterwards: in read-write
memory what the store left there (the kinds of address are the model's, log 5). (20_memory.md R79,
70_reset_and_hazards.md R362) -/
def Obligations.StoreNotSeenByNextInstruction : Prop :=
  ∀ (i : Instr) (s t : State), exec i s = .next t →
    (∃ f ∈ [ThumbFormat.t7, .t8, .t9, .t10, .t11, .t15], formatOf i = some f) ∨ (∃ lr rlist, i = .push lr rlist) →
    t.nextOpcode = (s.pipe.opcode.get (s.pipe.index + 1)).setWidth 16 ∧
    t.pipe.opcode.get (t.pipe.index + 1) =
      fetchedHalf (if formatOf i = some .t11 then { t with trace := t.trace.dropLast } else s) (s.reg pcReg)

/-- For every register of the PPU block and every byte index: reading just after a write gives the written byte under
the register's writable mask, and for DISPSTAT byte 0 the three status flags below it; an index beyond its size writes
nothing and reads 0 (the reading is the model's, log 14). After a write to a reference point bits 31:28 of its shadow
equal bit 27 of the written value; after Reset everything reads 0. BLDCNT byte 0 has the mask of conflict C6.
(60_exceptions.md R330 to R338, 90_conflicts.md C5, C6, 95_test_vectors.md 1.1) -/
def Obligations.PpuRoundTrip : Prop :=
  ∀ (p : Ppu) (v : Byte),
    (∀ i, i < 2 → (p.writeByte i v .dispcnt).readByte i .dispcnt = v) ∧
    (p.writeByte 0 v .dispstat).readByte 0 .dispstat = (v &&& 0x38) ||| p.dispstat.flags.setWidth 8 ∧
    (p.writeByte 1 v .dispstat).readByte 1 .dispstat = v ∧
    (∀ n, (p.writeByte 0 v (.bgcnt n)).readByte 0 (.bgcnt n) = v &&& 0xCF ∧
      (p.writeByte 1 v (.bgcnt n)).readByte 1 (.bgcnt n) = v) ∧
    (∀ n i, i < 4 → (p.writeByte i v (.refPoint n)).readByte i (.refPoint n) = v ∧
      ((p.writeByte i v (.refPoint n)).refPoint.get n).current =
        (((p.writeByte i v (.refPoint n)).refPoint.get n).initial.setWidth 28).signExtend 32) ∧
    (∀ n i, i < 2 → (p.writeByte i v (.winH n)).readByte i (.winH n) = v ∧
      (p.writeByte i v (.winV n)).readByte i (.winV n) = v ∧
      ((p.writeByte i v (.winH n)).winH.get n).changed =
        ((p.winH.get n).changed || v != p.readByte i (.winH n)) ∧
      ((p.writeByte i v (.winV n)).winV.get n).changed =
        ((p.winV.get n).changed || v != p.readByte i (.winV n))) ∧
    (∀ i, i < 2 → (p.writeByte i v .winin).readByte i .winin = v &&& 0x3F ∧
      (p.writeByte i v .winout).readByte i .winout = v &&& 0x3F) ∧
    (p.writeByte 0 v .bldcnt).readByte 0 .bldcnt = v ∧ (p.writeByte 1 v .bldcnt).readByte 1 .bldcnt = v &&& 0x3F ∧
    (∀ (r : PpuReg) i, r.size ≤ i → p.writeByte i v r = p ∧ p.readByte i r = 0) ∧ ∀ r i, Ppu.reset.readByte i r = 0
end

