-- ==== Sys2Proof/Laws/Memory.lean ====
section
/-! SUPPORT. Memory: what a byte reads as after a write, and that every operation keeps the canonical form. -/

namespace Sys2Proof.Machine

/-! ## The canonical form -/

theorem wfFrom_cons (lo k : Nat) (v : Byte) (m : Memory) :
    Memory.wfFrom lo ((k, v) :: m) = true ↔
      lo ≤ k ∧ k < 2 ^ 32 ∧ v ≠ Config.unlistedByte ∧ Memory.wfFrom (k + 1) m = true := by
  simp [Memory.wfFrom, and_assoc]

theorem wfFrom_mono {lo lo' : Nat} (h : lo' ≤ lo) : ∀ {m : Memory}, m.wfFrom lo = true → m.wfFrom lo' = true
  | [], _ => rfl
  | (k, v) :: m, hm => by
    rw [wfFrom_cons] at hm ⊢
    exact ⟨h.trans hm.1, hm.2⟩

/-- An address below every entry reads as unlisted. -/
theorem read_of_lt {lo a : Nat} (h : a < lo) : ∀ {m : Memory}, m.wfFrom lo = true → m.read a = Config.unlistedByte
  | [], _ => rfl
  | (k, v) :: m, hm => by
    rw [wfFrom_cons] at hm
    rw [Memory.read, if_neg (by omega)]
    exact read_of_lt (by omega) hm.2.2.2

theorem write_wfFrom {lo a : Nat} (b : Byte) (hlo : lo ≤ a) (ha : a < 2 ^ 32) :
    ∀ {m : Memory}, m.wfFrom lo = true → (m.write a b).wfFrom lo = true
  | [], _ => by
    by_cases hb : b = Config.unlistedByte
    · simp [Memory.write, hb, Memory.wfFrom]
    · simp only [Memory.write, if_neg hb, wfFrom_cons]
      exact ⟨hlo, ha, hb, rfl⟩
  | (k, v) :: m, hm => by
    have hk := (wfFrom_cons lo k v m).1 hm
    rw [Memory.write]
    split
    · split
      · exact hm
      · rename_i hak hb
        rw [wfFrom_cons, wfFrom_cons]
        exact ⟨hlo, ha, hb, by omega, hk.2⟩
    · split
      · rename_i hak
        subst hak
        split
        · exact wfFrom_mono (by omega) hk.2.2.2
        · rename_i hb
          rw [wfFrom_cons]
          exact ⟨hlo, ha, hb, hk.2.2.2⟩
      · rw [wfFrom_cons]
        exact ⟨hk.1, hk.2.1, hk.2.2.1, write_wfFrom b (by omega) ha hk.2.2.2⟩

/-- Writing a byte keeps the canonical form. -/
theorem write_wf {m : Memory} {a : Nat} (b : Byte) (ha : a < 2 ^ 32) (hm : m.wf = true) : (m.write a b).wf = true :=
  write_wfFrom b (Nat.zero_le a) ha hm

/-! ## Reading after a write -/

theorem read_writeFrom {lo a : Nat} (b : Byte) (c : Nat) :
    ∀ {m : Memory}, m.wfFrom lo = true → (m.write a b).read c = if c = a then b else m.read c
  | [], _ => by
    by_cases hb : b = Config.unlistedByte
    · simp [Memory.write, hb, Memory.read]
    · simp [Memory.write, hb, Memory.read, eq_comm]
  | (k, v) :: m, hm => by
    have hk := (wfFrom_cons lo k v m).1 hm
    rw [Memory.write]
    split
    · rename_i hak
      split
      · rename_i hb
        split
        · rename_i hca
          subst hca
          rw [hb, Memory.read, if_neg (by omega)]
          exact read_of_lt (by omega) hk.2.2.2
        · rfl
      · simp only [Memory.read, eq_comm]
    · split
      · rename_i hak
        subst hak
        split
        · rename_i hb
          split
          · rename_i hca
            subst hca
            rw [hb]
            exact read_of_lt (by omega) hk.2.2.2
          · rename_i hca
            rw [Memory.read, if_neg (Ne.symm hca)]
        · by_cases hca : c = a
          · simp [Memory.read, hca]
          · simp [Memory.read, hca, Ne.symm hca]
      · rename_i hak hne
        rw [Memory.read, read_writeFrom b c hk.2.2.2, Memory.read]
        by_cases hkc : k = c
        · rw [if_pos hkc, if_pos hkc, if_neg (by omega)]
        · rw [if_neg hkc, if_neg hkc]

/-- What a byte reads as after a write of one byte to canonical memory. -/
theorem read_write {m : Memory} (a : Nat) (b : Byte) (c : Nat) (hm : m.wf = true) :
    (m.write a b).read c = if c = a then b else m.read c := read_writeFrom b c hm

/-! ## Aligned addresses -/

theorem clearBit0_toNat (a : Word) : (clearBit0 a).toNat = 2 * (a.toNat / 2) := by
  rw [show clearBit0 a = (a >>> 1) <<< 1 by
    apply BitVec.eq_of_getLsbD_eq
    intro j hj
    have h : (0xFFFFFFFE : Word).getLsbD j = decide (1 ≤ j) := by
      revert hj; revert j; decide
    rw [clearBit0, BitVec.getLsbD_and, h, BitVec.getLsbD_shiftLeft, BitVec.getLsbD_ushiftRight]
    by_cases h1 : 1 ≤ j
    · simp [h1, hj, show ¬ j < 1 by omega, show 1 + (j - 1) = j by omega]
    · simp [h1, show j < 1 by omega]]
  have := a.isLt
  simp only [BitVec.toNat_shiftLeft, BitVec.toNat_ushiftRight, Nat.shiftLeft_eq, Nat.shiftRight_eq_div_pow]
  omega

theorem clearBits10_toNat (a : Word) : (clearBits10 a).toNat = 4 * (a.toNat / 4) := by
  rw [show clearBits10 a = (a >>> 2) <<< 2 by
    apply BitVec.eq_of_getLsbD_eq
    intro j hj
    have h : (0xFFFFFFFC : Word).getLsbD j = decide (2 ≤ j) := by
      revert hj; revert j; decide
    rw [clearBits10, BitVec.getLsbD_and, h, BitVec.getLsbD_shiftLeft, BitVec.getLsbD_ushiftRight]
    by_cases h1 : 2 ≤ j
    · simp [h1, hj, show ¬ j < 2 by omega, show 2 + (j - 2) = j by omega]
    · simp [h1, show j < 2 by omega]]
  have := a.isLt
  simp only [BitVec.toNat_shiftLeft, BitVec.toNat_ushiftRight, Nat.shiftLeft_eq, Nat.shiftRight_eq_div_pow]
  omega

/-- An access lies inside one aligned unit, so it never wraps (R63). -/
theorem align_bound (w : Width) (a : Word) : (w.align a).toNat + w.bytes ≤ 2 ^ 32 := by
  have := a.isLt
  cases w
  · simp only [Width.align, Width.bytes]; omega
  · simp only [Width.align, Width.bytes, clearBit0_toNat]; omega
  · simp only [Width.align, Width.bytes, clearBits10_toNat]; omega

/-! ## The reference bus -/

/-- A bus write keeps the canonical form. -/
theorem busWrite_wf {m : Memory} (a : Word) (w : Width) (v : Word) (hm : m.wf = true) : (busWrite m a w v).wf = true := by
  have hb := align_bound w a
  cases w <;> simp only [Width.bytes] at hb <;> simp only [busWrite]
  · exact write_wf _ (by omega) hm
  · exact write_wf _ (by omega) (write_wf _ (by omega) hm)
  · exact write_wf _ (by omega) (write_wf _ (by omega) (write_wf _ (by omega) (write_wf _ (by omega) hm)))

/-- What a byte reads as after a bus write: inside the aligned unit the value's byte, low byte first; outside it, as
before. -/
theorem read_busWrite {m : Memory} (a : Word) (w : Width) (v : Word) (c : Nat) (hm : m.wf = true) :
    (busWrite m a w v).read c =
      if (w.align a).toNat ≤ c ∧ c < (w.align a).toNat + w.bytes then v.extractLsb' (8 * (c - (w.align a).toNat)) 8
      else m.read c := by
  have hb := align_bound w a
  generalize hk : (w.align a).toNat = k at hb ⊢
  cases w <;> simp only [busWrite, hk] <;> simp only [Width.bytes] at hb
  · rw [read_write _ _ _ hm]
    by_cases h : c = k
    · rw [if_pos h, if_pos ⟨by omega, show c < k + 1 by omega⟩, h, Nat.sub_self]
    · rw [if_neg h, if_neg (show ¬(k ≤ c ∧ c < k + Width.byte.bytes) by simp only [Width.bytes]; omega)]
  · have h1 := write_wf (v.extractLsb' 0 8) (a := k) (by omega) hm
    rw [read_write _ _ _ h1, read_write _ _ _ hm]
    by_cases h : k ≤ c ∧ c < k + 2
    · rw [if_pos (show k ≤ c ∧ c < k + Width.half.bytes from h)]
      obtain rfl | rfl : c = k ∨ c = k + 1 := by omega
      · rw [if_neg (by omega), if_pos rfl, Nat.sub_self]
      · rw [if_pos rfl, show k + 1 - k = 1 by omega]
    · rw [if_neg (show ¬(k ≤ c ∧ c < k + Width.half.bytes) from h), if_neg (by omega), if_neg (by omega)]
  · have h1 := write_wf (v.extractLsb' 0 8) (a := k) (by omega) hm
    have h2 := write_wf (v.extractLsb' 8 8) (a := k + 1) (by omega) h1
    have h3 := write_wf (v.extractLsb' 16 8) (a := k + 2) (by omega) h2
    rw [read_write _ _ _ h3, read_write _ _ _ h2, read_write _ _ _ h1, read_write _ _ _ hm]
    by_cases h : k ≤ c ∧ c < k + 4
    · rw [if_pos (show k ≤ c ∧ c < k + Width.word.bytes from h)]
      obtain rfl | rfl | rfl | rfl : c = k ∨ c = k + 1 ∨ c = k + 2 ∨ c = k + 3 := by omega
      · rw [if_neg (by omega), if_neg (by omega), if_neg (by omega), if_pos rfl, Nat.sub_self]
      · rw [if_neg (by omega), if_neg (by omega), if_pos rfl, show k + 1 - k = 1 by omega]
      · rw [if_neg (by omega), if_pos rfl, show k + 2 - k = 2 by omega]
      · rw [if_pos rfl, show k + 3 - k = 3 by omega]
    · rw [if_neg (show ¬(k ≤ c ∧ c < k + Width.word.bytes) from h), if_neg (by omega), if_neg (by omega),
        if_neg (by omega), if_neg (by omega)]

/-- The bytes of a word read. -/
theorem readWord_bytes (m : Memory) (a : Word) (j : Nat) (h : j < 4) :
    (readWord m a).extractLsb' (8 * j) 8 = m.read ((clearBits10 a).toNat + j) := by
  apply BitVec.eq_of_getLsbD_eq
  intro i hi
  rw [BitVec.getLsbD_extractLsb', decide_eq_true hi, Bool.true_and]
  simp only [readWord, BitVec.getLsbD_append]
  obtain rfl | rfl | rfl | rfl : j = 0 ∨ j = 1 ∨ j = 2 ∨ j = 3 := by omega
  · rw [if_pos (by omega)]; congr 1; omega
  · rw [if_neg (by omega), if_pos (by omega)]; congr 1; omega
  · rw [if_neg (by omega), if_neg (by omega), if_pos (by omega)]; congr 1; omega
  · rw [if_neg (by omega), if_neg (by omega), if_neg (by omega)]; congr 1; omega

/-- A word is its four bytes. -/
theorem word_ext {v w : Word} (h : ∀ j, j < 4 → v.extractLsb' (8 * j) 8 = w.extractLsb' (8 * j) 8) : v = w := by
  apply BitVec.eq_of_getLsbD_eq
  intro i hi
  have := congrArg (fun x : Byte => x.getLsbD (i % 8)) (h (i / 8) (by omega))
  simpa [show i % 8 < 8 by omega, show 8 * (i / 8) + i % 8 = i by omega] using this

/-- A word written and read back at the same address. -/
theorem readWord_busWrite_same {m : Memory} (a v : Word) (hm : m.wf = true) : readWord (busWrite m a .word v) a = v := by
  apply word_ext
  intro j hj
  rw [readWord_bytes _ _ _ hj, read_busWrite _ _ _ _ hm]
  change (if (clearBits10 a).toNat ≤ (clearBits10 a).toNat + j ∧ (clearBits10 a).toNat + j < (clearBits10 a).toNat + 4
    then v.extractLsb' (8 * ((clearBits10 a).toNat + j - (clearBits10 a).toNat)) 8 else _) = _
  rw [if_pos (by omega), Nat.add_sub_cancel_left]

/-- A word read at an address of another aligned word. -/
theorem readWord_busWrite_other {m : Memory} (a b v : Word) (hm : m.wf = true) (h : a.toNat / 4 ≠ b.toNat / 4) :
    readWord (busWrite m a .word v) b = readWord m b := by
  apply word_ext
  intro j hj
  rw [readWord_bytes _ _ _ hj, readWord_bytes _ _ _ hj, read_busWrite _ _ _ _ hm, if_neg]
  change ¬((clearBits10 a).toNat ≤ _ ∧ _ < (clearBits10 a).toNat + 4)
  rw [clearBits10_toNat, clearBits10_toNat]
  omega

end Sys2Proof.Machine
end

