-- ==== Sys2Proof/Laws/State.lean ====
section
/-! SUPPORT. What each update of State leaves and sets, one lemma per field, so that no proof unfolds a record
update. -/

namespace Sys2Proof.Machine

/-! ## Register numbers -/

theorem low_val (r : LowReg) : (low r).val = r.val := rfl

theorem low_lt (r : LowReg) : (low r).val < 8 := r.isLt

@[simp] theorem low_inj (a b : LowReg) : low a = low b ↔ a = b := by
  simp [Fin.ext_iff, low_val]

theorem low_ne_of_le (r : LowReg) (k : Reg) (h : 8 ≤ k.val) : low r ≠ k := fun e => by
  have := low_lt r
  rw [e] at this
  omega

@[simp] theorem low_ne_sp (r : LowReg) : low r ≠ spReg := low_ne_of_le r 13 (by decide)
@[simp] theorem low_ne_lr (r : LowReg) : low r ≠ lrReg := low_ne_of_le r 14 (by decide)
@[simp] theorem low_ne_pc (r : LowReg) : low r ≠ pcReg := low_ne_of_le r 15 (by decide)
@[simp] theorem sp_ne_low (r : LowReg) : spReg ≠ low r := (low_ne_sp r).symm
@[simp] theorem lr_ne_low (r : LowReg) : lrReg ≠ low r := (low_ne_lr r).symm
@[simp] theorem pc_ne_low (r : LowReg) : pcReg ≠ low r := (low_ne_pc r).symm

/-! ## Reading a register back -/

theorem reg_setReg (s : State) (r q : Reg) (v : Word) : (s.setReg r v).reg q = if r = q then v else s.reg q := by
  simp only [State.reg, State.setReg, Vector.get_eq_getElem, Vector.getElem_set, Fin.ext_iff]

@[simp] theorem reg_setReg_same (s : State) (r : Reg) (v : Word) : (s.setReg r v).reg r = v := by simp [reg_setReg]

theorem reg_setReg_of_ne (s : State) {r q : Reg} (v : Word) (h : q ≠ r) : (s.setReg r v).reg q = s.reg q := by
  simp [reg_setReg, Ne.symm h]

/-! ## setReg -/

@[simp] theorem cpsr_setReg (s : State) (r : Reg) (v : Word) : (s.setReg r v).cpsr = s.cpsr := rfl
@[simp] theorem bank_setReg (s : State) (r : Reg) (v : Word) : (s.setReg r v).bank = s.bank := rfl
@[simp] theorem spsr_setReg (s : State) (r : Reg) (v : Word) : (s.setReg r v).spsr = s.spsr := rfl
@[simp] theorem pipe_setReg (s : State) (r : Reg) (v : Word) : (s.setReg r v).pipe = s.pipe := rfl
@[simp] theorem regions_setReg (s : State) (r : Reg) (v : Word) : (s.setReg r v).regions = s.regions := rfl
@[simp] theorem mem_setReg (s : State) (r : Reg) (v : Word) : (s.setReg r v).mem = s.mem := rfl
@[simp] theorem irqLine_setReg (s : State) (r : Reg) (v : Word) : (s.setReg r v).irqLine = s.irqLine := rfl
@[simp] theorem trace_setReg (s : State) (r : Reg) (v : Word) : (s.setReg r v).trace = s.trace := rfl
@[simp] theorem load_setReg (s : State) (r : Reg) (v : Word) (b : Word) (y : Width) (z : Widen) :
    (s.setReg r v).load b y z = s.load b y z := rfl

/-! ## setCpsr -/

@[simp] theorem reg_setCpsr (s : State) (p : Word) (q : Reg) : (s.setCpsr p).reg q = s.reg q := rfl
@[simp] theorem cpsr_setCpsr (s : State) (p : Word) : (s.setCpsr p).cpsr = p := rfl
@[simp] theorem bank_setCpsr (s : State) (p : Word) : (s.setCpsr p).bank = s.bank := rfl
@[simp] theorem spsr_setCpsr (s : State) (p : Word) : (s.setCpsr p).spsr = s.spsr := rfl
@[simp] theorem pipe_setCpsr (s : State) (p : Word) : (s.setCpsr p).pipe = s.pipe := rfl
@[simp] theorem regions_setCpsr (s : State) (p : Word) : (s.setCpsr p).regions = s.regions := rfl
@[simp] theorem mem_setCpsr (s : State) (p : Word) : (s.setCpsr p).mem = s.mem := rfl
@[simp] theorem irqLine_setCpsr (s : State) (p : Word) : (s.setCpsr p).irqLine = s.irqLine := rfl
@[simp] theorem trace_setCpsr (s : State) (p : Word) : (s.setCpsr p).trace = s.trace := rfl
@[simp] theorem load_setCpsr (s : State) (p : Word) (b : Word) (y : Width) (z : Widen) :
    (s.setCpsr p).load b y z = s.load b y z := rfl

/-! ## after -/

@[simp] theorem reg_after (s : State) (es : List BusEvent) (q : Reg) : (s.after es).reg q = s.reg q := rfl
@[simp] theorem cpsr_after (s : State) (es : List BusEvent) : (s.after es).cpsr = s.cpsr := rfl
@[simp] theorem bank_after (s : State) (es : List BusEvent) : (s.after es).bank = s.bank := rfl
@[simp] theorem spsr_after (s : State) (es : List BusEvent) : (s.after es).spsr = s.spsr := rfl
@[simp] theorem pipe_after (s : State) (es : List BusEvent) : (s.after es).pipe = s.pipe := rfl
@[simp] theorem regions_after (s : State) (es : List BusEvent) : (s.after es).regions = s.regions := rfl
@[simp] theorem mem_after (s : State) (es : List BusEvent) : (s.after es).mem = s.mem := rfl
@[simp] theorem irqLine_after (s : State) (es : List BusEvent) : (s.after es).irqLine = s.irqLine := rfl
@[simp] theorem trace_after (s : State) (es : List BusEvent) : (s.after es).trace = s.trace ++ es := rfl

/-! ## emit -/

@[simp] theorem reg_emit (s : State) (e : BusEvent) (q : Reg) : (s.emit e).reg q = s.reg q := rfl
@[simp] theorem cpsr_emit (s : State) (e : BusEvent) : (s.emit e).cpsr = s.cpsr := rfl
@[simp] theorem bank_emit (s : State) (e : BusEvent) : (s.emit e).bank = s.bank := rfl
@[simp] theorem spsr_emit (s : State) (e : BusEvent) : (s.emit e).spsr = s.spsr := rfl
@[simp] theorem pipe_emit (s : State) (e : BusEvent) : (s.emit e).pipe = s.pipe := rfl
@[simp] theorem regions_emit (s : State) (e : BusEvent) : (s.emit e).regions = s.regions := rfl
@[simp] theorem mem_emit (s : State) (e : BusEvent) : (s.emit e).mem = s.mem := rfl
@[simp] theorem irqLine_emit (s : State) (e : BusEvent) : (s.emit e).irqLine = s.irqLine := rfl
@[simp] theorem trace_emit (s : State) (e : BusEvent) : (s.emit e).trace = s.trace ++ [e] := rfl
@[simp] theorem load_emit (s : State) (e : BusEvent) (b : Word) (y : Width) (z : Widen) :
    (s.emit e).load b y z = (s.after [e]).load b y z := rfl

/-! ## setSlot -/

@[simp] theorem reg_setSlot (s : State) (k : Fin 3) (v : Word) (q : Reg) : (s.setSlot k v).reg q = s.reg q := rfl
@[simp] theorem cpsr_setSlot (s : State) (k : Fin 3) (v : Word) : (s.setSlot k v).cpsr = s.cpsr := rfl
@[simp] theorem bank_setSlot (s : State) (k : Fin 3) (v : Word) : (s.setSlot k v).bank = s.bank := rfl
@[simp] theorem spsr_setSlot (s : State) (k : Fin 3) (v : Word) : (s.setSlot k v).spsr = s.spsr := rfl
@[simp] theorem index_setSlot (s : State) (k : Fin 3) (v : Word) : (s.setSlot k v).pipe.index = s.pipe.index := rfl
@[simp] theorem regions_setSlot (s : State) (k : Fin 3) (v : Word) : (s.setSlot k v).regions = s.regions := rfl
@[simp] theorem mem_setSlot (s : State) (k : Fin 3) (v : Word) : (s.setSlot k v).mem = s.mem := rfl
@[simp] theorem irqLine_setSlot (s : State) (k : Fin 3) (v : Word) : (s.setSlot k v).irqLine = s.irqLine := rfl
@[simp] theorem trace_setSlot (s : State) (k : Fin 3) (v : Word) : (s.setSlot k v).trace = s.trace := rfl
@[simp] theorem load_setSlot (s : State) (k : Fin 3) (v : Word) (b : Word) (y : Width) (z : Widen) :
    (s.setSlot k v).load b y z = s.load b y z := rfl

/-! ## setIndex -/

@[simp] theorem reg_setIndex (s : State) (k : Fin 3) (q : Reg) : (s.setIndex k).reg q = s.reg q := rfl
@[simp] theorem cpsr_setIndex (s : State) (k : Fin 3) : (s.setIndex k).cpsr = s.cpsr := rfl
@[simp] theorem bank_setIndex (s : State) (k : Fin 3) : (s.setIndex k).bank = s.bank := rfl
@[simp] theorem spsr_setIndex (s : State) (k : Fin 3) : (s.setIndex k).spsr = s.spsr := rfl
@[simp] theorem opcode_setIndex (s : State) (k : Fin 3) : (s.setIndex k).pipe.opcode = s.pipe.opcode := rfl
@[simp] theorem index_setIndex (s : State) (k : Fin 3) : (s.setIndex k).pipe.index = k := rfl
@[simp] theorem regions_setIndex (s : State) (k : Fin 3) : (s.setIndex k).regions = s.regions := rfl
@[simp] theorem mem_setIndex (s : State) (k : Fin 3) : (s.setIndex k).mem = s.mem := rfl
@[simp] theorem irqLine_setIndex (s : State) (k : Fin 3) : (s.setIndex k).irqLine = s.irqLine := rfl
@[simp] theorem trace_setIndex (s : State) (k : Fin 3) : (s.setIndex k).trace = s.trace := rfl
@[simp] theorem load_setIndex (s : State) (k : Fin 3) (b : Word) (y : Width) (z : Widen) :
    (s.setIndex k).load b y z = s.load b y z := rfl

/-! ## store -/

@[simp] theorem reg_store (s : State) (a : Word) (w : Width) (v : Word) (tag : SeqTag) (q : Reg) :
    (s.store a w v tag).reg q = s.reg q := rfl
@[simp] theorem cpsr_store (s : State) (a : Word) (w : Width) (v : Word) (tag : SeqTag) :
    (s.store a w v tag).cpsr = s.cpsr := rfl
@[simp] theorem bank_store (s : State) (a : Word) (w : Width) (v : Word) (tag : SeqTag) :
    (s.store a w v tag).bank = s.bank := rfl
@[simp] theorem spsr_store (s : State) (a : Word) (w : Width) (v : Word) (tag : SeqTag) :
    (s.store a w v tag).spsr = s.spsr := rfl
@[simp] theorem pipe_store (s : State) (a : Word) (w : Width) (v : Word) (tag : SeqTag) :
    (s.store a w v tag).pipe = s.pipe := rfl
@[simp] theorem regions_store (s : State) (a : Word) (w : Width) (v : Word) (tag : SeqTag) :
    (s.store a w v tag).regions = s.regions := rfl
@[simp] theorem mem_store (s : State) (a : Word) (w : Width) (v : Word) (tag : SeqTag) :
    (s.store a w v tag).mem = s.busStore a w v := rfl
@[simp] theorem irqLine_store (s : State) (a : Word) (w : Width) (v : Word) (tag : SeqTag) :
    (s.store a w v tag).irqLine = s.irqLine := rfl
@[simp] theorem trace_store (s : State) (a : Word) (w : Width) (v : Word) (tag : SeqTag) :
    (s.store a w v tag).trace = s.trace ++ [.write a w (w.trunc v) tag] := rfl

/-! ## loadReg -/

@[simp] theorem reg_loadReg (s : State) (r : Reg) (a : Word) (w : Width) (tag : SeqTag) (e : Widen) (q : Reg) :
    (s.loadReg r a w tag e).reg q = (s.setReg r (s.load a w e)).reg q := rfl
@[simp] theorem cpsr_loadReg (s : State) (r : Reg) (a : Word) (w : Width) (tag : SeqTag) (e : Widen) :
    (s.loadReg r a w tag e).cpsr = s.cpsr := rfl
@[simp] theorem bank_loadReg (s : State) (r : Reg) (a : Word) (w : Width) (tag : SeqTag) (e : Widen) :
    (s.loadReg r a w tag e).bank = s.bank := rfl
@[simp] theorem spsr_loadReg (s : State) (r : Reg) (a : Word) (w : Width) (tag : SeqTag) (e : Widen) :
    (s.loadReg r a w tag e).spsr = s.spsr := rfl
@[simp] theorem pipe_loadReg (s : State) (r : Reg) (a : Word) (w : Width) (tag : SeqTag) (e : Widen) :
    (s.loadReg r a w tag e).pipe = s.pipe := rfl
@[simp] theorem regions_loadReg (s : State) (r : Reg) (a : Word) (w : Width) (tag : SeqTag) (e : Widen) :
    (s.loadReg r a w tag e).regions = s.regions := rfl
@[simp] theorem mem_loadReg (s : State) (r : Reg) (a : Word) (w : Width) (tag : SeqTag) (e : Widen) :
    (s.loadReg r a w tag e).mem = s.mem := rfl
@[simp] theorem irqLine_loadReg (s : State) (r : Reg) (a : Word) (w : Width) (tag : SeqTag) (e : Widen) :
    (s.loadReg r a w tag e).irqLine = s.irqLine := rfl
@[simp] theorem trace_loadReg (s : State) (r : Reg) (a : Word) (w : Width) (tag : SeqTag) (e : Widen) :
    (s.loadReg r a w tag e).trace = s.trace ++ [.read a w tag e] := rfl
@[simp] theorem load_loadReg (s : State) (r : Reg) (a : Word) (w : Width) (tag : SeqTag) (e : Widen) (b : Word) (y : Width) (z : Widen) :
    (s.loadReg r a w tag e).load b y z = (s.after [.read a w tag e]).load b y z := rfl

/-! ## fetchSlot -/

@[simp] theorem reg_fetchSlot (s : State) (k : Fin 3) (a : Word) (w : Width) (tag : SeqTag) (q : Reg) :
    (s.fetchSlot k a w tag).reg q = s.reg q := rfl
@[simp] theorem cpsr_fetchSlot (s : State) (k : Fin 3) (a : Word) (w : Width) (tag : SeqTag) :
    (s.fetchSlot k a w tag).cpsr = s.cpsr := rfl
@[simp] theorem bank_fetchSlot (s : State) (k : Fin 3) (a : Word) (w : Width) (tag : SeqTag) :
    (s.fetchSlot k a w tag).bank = s.bank := rfl
@[simp] theorem spsr_fetchSlot (s : State) (k : Fin 3) (a : Word) (w : Width) (tag : SeqTag) :
    (s.fetchSlot k a w tag).spsr = s.spsr := rfl
@[simp] theorem index_fetchSlot (s : State) (k : Fin 3) (a : Word) (w : Width) (tag : SeqTag) :
    (s.fetchSlot k a w tag).pipe.index = s.pipe.index := rfl
@[simp] theorem regions_fetchSlot (s : State) (k : Fin 3) (a : Word) (w : Width) (tag : SeqTag) :
    (s.fetchSlot k a w tag).regions = s.regions := rfl
@[simp] theorem mem_fetchSlot (s : State) (k : Fin 3) (a : Word) (w : Width) (tag : SeqTag) :
    (s.fetchSlot k a w tag).mem = s.mem := rfl
@[simp] theorem irqLine_fetchSlot (s : State) (k : Fin 3) (a : Word) (w : Width) (tag : SeqTag) :
    (s.fetchSlot k a w tag).irqLine = s.irqLine := rfl
@[simp] theorem trace_fetchSlot (s : State) (k : Fin 3) (a : Word) (w : Width) (tag : SeqTag) :
    (s.fetchSlot k a w tag).trace = s.trace ++ [.read a w tag .plain] := rfl
@[simp] theorem load_fetchSlot (s : State) (k : Fin 3) (a : Word) (w : Width) (tag : SeqTag) (b : Word) (y : Width) (z : Widen) :
    (s.fetchSlot k a w tag).load b y z = (s.after [.read a w tag .plain]).load b y z := rfl

/-! ## prefetch -/

@[simp] theorem reg_prefetch (s : State) (f : ThumbFormat) (q : Reg) : (s.prefetch f).reg q = s.reg q := rfl
@[simp] theorem cpsr_prefetch (s : State) (f : ThumbFormat) : (s.prefetch f).cpsr = s.cpsr := rfl
@[simp] theorem bank_prefetch (s : State) (f : ThumbFormat) : (s.prefetch f).bank = s.bank := rfl
@[simp] theorem spsr_prefetch (s : State) (f : ThumbFormat) : (s.prefetch f).spsr = s.spsr := rfl
@[simp] theorem index_prefetch (s : State) (f : ThumbFormat) : (s.prefetch f).pipe.index = s.pipe.index := rfl
@[simp] theorem regions_prefetch (s : State) (f : ThumbFormat) : (s.prefetch f).regions = s.regions := rfl
@[simp] theorem mem_prefetch (s : State) (f : ThumbFormat) : (s.prefetch f).mem = s.mem := rfl
@[simp] theorem irqLine_prefetch (s : State) (f : ThumbFormat) : (s.prefetch f).irqLine = s.irqLine := rfl
@[simp] theorem trace_prefetch (s : State) (f : ThumbFormat) :
    (s.prefetch f).trace = s.trace ++ [.read (s.reg pcReg) .half (Config.prefetchAcc f) .plain] := rfl
@[simp] theorem load_prefetch (s : State) (f : ThumbFormat) (b : Word) (y : Width) (z : Widen) :
    (s.prefetch f).load b y z = (s.after [.read (s.reg pcReg) .half (Config.prefetchAcc f) .plain]).load b y z := rfl

/-! ## advance -/

@[simp] theorem reg_advance (s : State) (q : Reg) :
    (s.advance).reg q = (s.setReg pcReg (s.reg pcReg + 2)).reg q := rfl
@[simp] theorem cpsr_advance (s : State) : (s.advance).cpsr = s.cpsr := rfl
@[simp] theorem bank_advance (s : State) : (s.advance).bank = s.bank := rfl
@[simp] theorem spsr_advance (s : State) : (s.advance).spsr = s.spsr := rfl
@[simp] theorem opcode_advance (s : State) : (s.advance).pipe.opcode = s.pipe.opcode := rfl
@[simp] theorem index_advance (s : State) : (s.advance).pipe.index = s.pipe.index + 1 := rfl
@[simp] theorem regions_advance (s : State) : (s.advance).regions = s.regions := rfl
@[simp] theorem mem_advance (s : State) : (s.advance).mem = s.mem := rfl
@[simp] theorem irqLine_advance (s : State) : (s.advance).irqLine = s.irqLine := rfl
@[simp] theorem trace_advance (s : State) : (s.advance).trace = s.trace := rfl
@[simp] theorem load_advance (s : State) (b : Word) (y : Width) (z : Widen) :
    (s.advance).load b y z = s.load b y z := rfl

/-! ## sampled -/

@[simp] theorem reg_sampled (s : State) (q : Reg) : (s.sampled).reg q = s.reg q := rfl
@[simp] theorem cpsr_sampled (s : State) : (s.sampled).cpsr = s.cpsr := rfl
@[simp] theorem bank_sampled (s : State) : (s.sampled).bank = s.bank := rfl
@[simp] theorem spsr_sampled (s : State) : (s.sampled).spsr = s.spsr := rfl
@[simp] theorem pipe_sampled (s : State) : (s.sampled).pipe = s.pipe := rfl
@[simp] theorem regions_sampled (s : State) : (s.sampled).regions = s.regions := rfl
@[simp] theorem mem_sampled (s : State) : (s.sampled).mem = s.mem := rfl
@[simp] theorem irqLine_sampled (s : State) : (s.sampled).irqLine = s.irqLine.tail := rfl
@[simp] theorem trace_sampled (s : State) : (s.sampled).trace = s.trace := rfl
@[simp] theorem load_sampled (s : State) (b : Word) (y : Width) (z : Widen) :
    (s.sampled).load b y z = s.load b y z := rfl

/-! ## Pipeline slots -/

theorem slot_setSlot (s : State) (k j : Fin 3) (v : Word) :
    (s.setSlot k v).pipe.opcode.get j = if k = j then v else s.pipe.opcode.get j := by
  simp only [State.setSlot, Vector.get_eq_getElem, Vector.getElem_set, Fin.ext_iff]

theorem slot_fetchSlot (s : State) (k j : Fin 3) (a : Word) (w : Width) (tag : SeqTag) :
    (s.fetchSlot k a w tag).pipe.opcode.get j = if k = j then s.load a w .plain else s.pipe.opcode.get j :=
  slot_setSlot s k j _

theorem slot_prefetch (s : State) (f : ThumbFormat) (j : Fin 3) :
    (s.prefetch f).pipe.opcode.get j =
      if s.pipe.index + 2 = j then s.load (s.reg pcReg) .half .plain else s.pipe.opcode.get j :=
  slot_setSlot s _ j _

theorem slot_jumpThumb (s : State) (t : Word) (j : Fin 3) :
    (s.jumpThumb t).pipe.opcode.get j =
      if 1 = j then (s.after [.read t .half .nonseq .plain]).load (t + 2) .half .plain
      else if 0 = j then s.load t .half .plain else s.pipe.opcode.get j := by
  simp only [State.jumpThumb, pipe_setReg, slot_fetchSlot, load_fetchSlot, load_setIndex, opcode_setIndex]
  rfl

theorem slot_jumpArm (s : State) (t : Word) (j : Fin 3) :
    (s.jumpArm t).pipe.opcode.get j =
      if 1 = j then (s.after [.read t .word .nonseq .plain]).load (t + 4) .word .plain
      else if 0 = j then s.load t .word .plain else s.pipe.opcode.get j := by
  simp only [State.jumpArm, pipe_setReg, slot_fetchSlot, load_fetchSlot, load_setIndex, opcode_setIndex]
  rfl

/-! ## Refills -/

@[simp] theorem cpsr_jumpThumb (s : State) (t : Word) : (s.jumpThumb t).cpsr = s.cpsr := rfl
@[simp] theorem bank_jumpThumb (s : State) (t : Word) : (s.jumpThumb t).bank = s.bank := rfl
@[simp] theorem spsr_jumpThumb (s : State) (t : Word) : (s.jumpThumb t).spsr = s.spsr := rfl
@[simp] theorem index_jumpThumb (s : State) (t : Word) : (s.jumpThumb t).pipe.index = 0 := rfl
@[simp] theorem regions_jumpThumb (s : State) (t : Word) : (s.jumpThumb t).regions = s.regions := rfl
@[simp] theorem mem_jumpThumb (s : State) (t : Word) : (s.jumpThumb t).mem = s.mem := rfl
@[simp] theorem irqLine_jumpThumb (s : State) (t : Word) : (s.jumpThumb t).irqLine = s.irqLine := rfl
theorem trace_jumpThumb (s : State) (t : Word) : (s.jumpThumb t).trace =
    s.trace ++ [.read t .half .nonseq .plain] ++ [.read (t + 2) .half .seq .plain] := rfl
theorem reg_jumpThumb (s : State) (t : Word) (q : Reg) : (s.jumpThumb t).reg q = (s.setReg pcReg (t + 4)).reg q := rfl

@[simp] theorem cpsr_jumpArm (s : State) (t : Word) : (s.jumpArm t).cpsr = s.cpsr := rfl
@[simp] theorem bank_jumpArm (s : State) (t : Word) : (s.jumpArm t).bank = s.bank := rfl
@[simp] theorem spsr_jumpArm (s : State) (t : Word) : (s.jumpArm t).spsr = s.spsr := rfl
@[simp] theorem index_jumpArm (s : State) (t : Word) : (s.jumpArm t).pipe.index = 0 := rfl
@[simp] theorem regions_jumpArm (s : State) (t : Word) : (s.jumpArm t).regions = s.regions := rfl
@[simp] theorem mem_jumpArm (s : State) (t : Word) : (s.jumpArm t).mem = s.mem := rfl
@[simp] theorem irqLine_jumpArm (s : State) (t : Word) : (s.jumpArm t).irqLine = s.irqLine := rfl
theorem trace_jumpArm (s : State) (t : Word) : (s.jumpArm t).trace =
    s.trace ++ [.read t .word .nonseq .plain] ++ [.read (t + 4) .word .seq .plain] := rfl
theorem reg_jumpArm (s : State) (t : Word) (q : Reg) : (s.jumpArm t).reg q = (s.setReg pcReg (t + 8)).reg q := rfl

end Sys2Proof.Machine
end

