-- ==== Sys2Proof/Laws/Bus.lean ====
section
/-! SUPPORT. The bus: what a read depends on, what a write does, and that at an address of memory both are the
reference bus (20_memory.md R63). -/

namespace Sys2Proof.Machine

/-! ## What a read depends on -/

theorem kindAt_congr {s t : State} (h : t.regions = s.regions) (a : Word) : t.kindAt a = s.kindAt a := by
  rw [State.kindAt, h, State.kindAt]

/-- Two addresses of one aligned word are of one kind. -/
theorem kindAt_of_aligned (s : State) {a b : Word} (h : clearBits10 a = clearBits10 b) : s.kindAt a = s.kindAt b := by
  simp only [State.kindAt, Region.holds, h]

/-- The empty map is the reference bus. -/
theorem kindAt_of_no_region {s : State} (h : s.regions = []) (a : Word) : s.kindAt a = .ram := by
  rw [State.kindAt, h]
  rfl

theorem answer_congr {s t : State} (h : t.accesses = s.accesses) (a : Word) (w : Width) : t.answer a w = s.answer a w := by
  rw [State.answer, h, State.answer]

/-- A read depends on the map, the memory and the accesses made so far: on no register and on no access tag. -/
theorem load_congr {s t : State} (hr : t.regions = s.regions) (hm : t.mem = s.mem) (ha : t.accesses = s.accesses)
    (a : Word) (w : Width) (e : Widen) : t.load a w e = s.load a w e := by
  have hb : t.busByte a = s.busByte a := by rw [State.busByte, kindAt_congr hr, answer_congr ha, hm, State.busByte]
  have hh : t.busHalf a = s.busHalf a := by rw [State.busHalf, kindAt_congr hr, answer_congr ha, hm, State.busHalf]
  have hw : t.busWord a = s.busWord a := by rw [State.busWord, kindAt_congr hr, answer_congr ha, hm, State.busWord]
  cases w <;> cases e <;>
    simp only [State.load, State.loadByte, State.loadHalf, State.loadWord, hb, hh, hw]

@[simp] theorem after_nil (s : State) : s.after [] = s := by
  rw [State.after, List.append_nil]

@[simp] theorem after_after (s : State) (es es' : List BusEvent) : (s.after es).after es' = s.after (es ++ es') := by
  rw [State.after, State.after, State.after, List.append_assoc]

/-! ## At an address of memory the bus is the reference bus -/

theorem busByte_memory {s : State} {a : Word} (h : s.kindAt a ≠ .external) : s.busByte a = readByte s.mem a := if_neg h
theorem busHalf_memory {s : State} {a : Word} (h : s.kindAt a ≠ .external) : s.busHalf a = readHalf s.mem a := if_neg h
theorem busWord_memory {s : State} {a : Word} (h : s.kindAt a ≠ .external) : s.busWord a = readWord s.mem a := if_neg h

theorem busByte_external {s : State} {a : Word} (h : s.kindAt a = .external) :
    s.busByte a = (s.answer a .byte).setWidth 8 := if_pos h
theorem busHalf_external {s : State} {a : Word} (h : s.kindAt a = .external) :
    s.busHalf a = (s.answer a .half).setWidth 16 := if_pos h
theorem busWord_external {s : State} {a : Word} (h : s.kindAt a = .external) :
    s.busWord a = s.answer a .word := if_pos h

theorem busStore_ram {s : State} {a : Word} (h : s.kindAt a = .ram) (w : Width) (v : Word) :
    s.busStore a w v = busWrite s.mem a w v := if_pos h
theorem busStore_other {s : State} {a : Word} (h : s.kindAt a ≠ .ram) (w : Width) (v : Word) :
    s.busStore a w v = s.mem := if_neg h

/-- A fetched halfword has no bits above 15. -/
theorem load_half_plain_high (s : State) (a : Word) : (s.load a .half .plain).extractLsb' 16 16 = 0 := by
  apply BitVec.eq_of_getLsbD_eq
  intro i hi
  rw [BitVec.getLsbD_extractLsb']
  change (decide (i < 16) && ((s.busHalf a).setWidth 32).getLsbD (16 + i)) = _
  rw [BitVec.getLsbD_setWidth, BitVec.getLsbD_of_ge _ _ (by omega : 16 ≤ 16 + i)]
  simp

/-! ## Writes -/

/-- A bus write keeps the canonical form, whatever answers at the address. -/
theorem busStore_wf {s : State} (a : Word) (w : Width) (v : Word) (hm : s.mem.wf = true) : (s.busStore a w v).wf = true := by
  unfold State.busStore
  split
  · exact busWrite_wf a w v hm
  · exact hm

/-- What a byte reads as after a bus write: in read-write memory, inside the aligned unit, the value's byte; else as
before. -/
theorem read_busStore {s : State} (a : Word) (w : Width) (v : Word) (c : Nat) (hm : s.mem.wf = true) :
    (s.busStore a w v).read c =
      if s.kindAt a = .ram ∧ (w.align a).toNat ≤ c ∧ c < (w.align a).toNat + w.bytes then
        v.extractLsb' (8 * (c - (w.align a).toNat)) 8
      else s.mem.read c := by
  by_cases h : s.kindAt a = .ram
  · rw [busStore_ram h, read_busWrite _ _ _ _ hm]
    simp only [h, true_and]
  · rw [busStore_other h, if_neg fun h' => h h'.1]

end Sys2Proof.Machine
end

