-- ==== Sys2Proof/Laws/Psr.lean ====
section
/-! SUPPORT. The bits of a status register after each write of a field. -/

namespace Sys2Proof.Machine

/-! ## Single bits -/

theorem bit_setBit (w : Word) {i : Nat} (j : Nat) (b : Bool) (h : i < 32) :
    (setBit w i b).getLsbD j = if j = i then b else w.getLsbD j := by
  by_cases hj : j = i
  · subst hj; cases b <;> simp [setBit, h]
  · by_cases hl : j < 32
    · cases b <;> simp [setBit, hj, hl] <;> omega
    · have hw : w.getLsbD j = false := BitVec.getLsbD_of_ge _ _ (by omega)
      have hs : (setBit w i b).getLsbD j = false := BitVec.getLsbD_of_ge _ _ (by omega)
      simp [hj, hw, hs]

theorem bit_setPsrM (m : BitVec 5) (p : Word) (j : Nat) :
    (setPsrM m p).getLsbD j = if j < 5 then m.getLsbD j else p.getLsbD j := by
  rw [setPsrM, BitVec.getLsbD_append]
  by_cases h : j < 5
  · simp [h]
  · rw [if_neg h, if_neg h, BitVec.getLsbD_extractLsb', show 5 + (j - 5) = j by omega]
    by_cases hj : j - 5 < 27
    · simp [hj]
    · simp [hj, BitVec.getLsbD_of_ge p j (by omega)]

/-! ## Fields -/

theorem bit_psrM (p : Word) (j : Nat) : (psrM p).getLsbD j = (decide (j < 5) && p.getLsbD j) := by
  simp [psrM]

/-- Two words with the same low five bits have the same mode field. -/
theorem psrM_congr {p q : Word} (h : ∀ j, j < 5 → p.getLsbD j = q.getLsbD j) : psrM p = psrM q := by
  apply BitVec.eq_of_getLsbD_eq
  intro j hj
  rw [bit_psrM, bit_psrM, h j hj]

@[simp] theorem psrM_setPsrM (m : BitVec 5) (p : Word) : psrM (setPsrM m p) = m := by
  apply BitVec.eq_of_getLsbD_eq
  intro j hj
  rw [bit_psrM, bit_setPsrM, if_pos hj, decide_eq_true hj, Bool.true_and]

theorem psrM_setBit (p : Word) {i : Nat} (b : Bool) (h : i < 32) (h5 : 5 ≤ i) : psrM (setBit p i b) = psrM p :=
  psrM_congr fun j hj => by rw [bit_setBit p j b h, if_neg (by omega)]

/-! ## Flags of a result -/

theorem bit_putNZ (r p : Word) (j : Nat) :
    (putNZ r p).getLsbD j =
      if j = 30 then decide (r = 0) else if j = 31 then r.getLsbD 31 else p.getLsbD j := by
  simp only [putNZ, setPsrZ, setPsrN, bit_setBit _ _ _ (show 30 < 32 by decide),
    bit_setBit _ _ _ (show 31 < 32 by decide)]
  rfl

theorem bit_putNZC (r p : Word) (c : Bool) (j : Nat) :
    (putNZC r c p).getLsbD j = if j = 29 then c else (putNZ r p).getLsbD j := by
  simp only [putNZC, setPsrC, bit_setBit _ _ _ (show 29 < 32 by decide)]

theorem bit_putNZCV (f : Arith) (p : Word) (j : Nat) :
    (putNZCV f p).getLsbD j = if j = 28 then f.overflow else (putNZC f.value f.carry p).getLsbD j := by
  simp only [putNZCV, setPsrV, bit_setBit _ _ _ (show 28 < 32 by decide)]

@[simp] theorem psrN_putNZ (r p : Word) : psrN (putNZ r p) = r.getLsbD 31 := by
  simp only [psrN, bit_putNZ]; rfl
@[simp] theorem psrZ_putNZ (r p : Word) : psrZ (putNZ r p) = decide (r = 0) := by
  simp only [psrZ, bit_putNZ]; rfl
@[simp] theorem psrN_putNZC (r p : Word) (c : Bool) : psrN (putNZC r c p) = r.getLsbD 31 := by
  simp only [psrN, bit_putNZC, bit_putNZ]; rfl
@[simp] theorem psrZ_putNZC (r p : Word) (c : Bool) : psrZ (putNZC r c p) = decide (r = 0) := by
  simp only [psrZ, bit_putNZC, bit_putNZ]; rfl
@[simp] theorem psrC_putNZC (r p : Word) (c : Bool) : psrC (putNZC r c p) = c := by
  simp only [psrC, bit_putNZC]; rfl
@[simp] theorem psrN_putNZCV (f : Arith) (p : Word) : psrN (putNZCV f p) = f.value.getLsbD 31 := by
  simp only [psrN, bit_putNZCV, bit_putNZC, bit_putNZ]; rfl
@[simp] theorem psrZ_putNZCV (f : Arith) (p : Word) : psrZ (putNZCV f p) = decide (f.value = 0) := by
  simp only [psrZ, bit_putNZCV, bit_putNZC, bit_putNZ]; rfl
@[simp] theorem psrC_putNZCV (f : Arith) (p : Word) : psrC (putNZCV f p) = f.carry := by
  simp only [psrC, bit_putNZCV, bit_putNZC]; rfl
@[simp] theorem psrV_putNZCV (f : Arith) (p : Word) : psrV (putNZCV f p) = f.overflow := by
  simp only [psrV, bit_putNZCV]; rfl

/-- The writes of the flags leave the bits below them alone. -/
theorem bit_putNZ_low (r p : Word) {j : Nat} (h : j < 30) : (putNZ r p).getLsbD j = p.getLsbD j := by
  rw [bit_putNZ, if_neg (by omega), if_neg (by omega)]

theorem bit_putNZC_low (r p : Word) (c : Bool) {j : Nat} (h : j < 29) : (putNZC r c p).getLsbD j = p.getLsbD j := by
  rw [bit_putNZC, if_neg (by omega), bit_putNZ_low r p (by omega)]

theorem bit_putNZCV_low (f : Arith) (p : Word) {j : Nat} (h : j < 28) : (putNZCV f p).getLsbD j = p.getLsbD j := by
  rw [bit_putNZCV, if_neg (by omega), bit_putNZC_low _ p _ (by omega)]

/-! ## Legal modes -/

theorem legalMode_bits (m : Mode) : legalMode m.bits = true := by cases m <;> decide

theorem bankOf_bits (m : Mode) : bankOf m.bits = some m.bank := by cases m <;> decide

theorem bankOf_isSome (m : BitVec 5) : (bankOf m).isSome = legalMode m := by simp [bankOf, legalMode]

end Sys2Proof.Machine
end

