-- ==== Sys2Proof/Laws/Ops.lean ====
section
/-! SUPPORT. One lemma per shared operation that says everything it can do. -/

namespace Sys2Proof.Machine

/-! ## Pipeline -/

theorem load_half_plain (s : State) (a : Word) : s.load a .half .plain = fetchedHalf s a := rfl

theorem load_word_plain (s : State) (a : Word) : s.load a .word .plain = s.busWord a := rfl

theorem prefetch_event (s : State) (f : ThumbFormat) : (s.prefetch f).trace = s.trace ++ [prefetchEvent f s] := rfl

/-- What is read after a prefetch: the bus has seen its fetch. -/
theorem load_after_prefetch (s : State) (f : ThumbFormat) (a : Word) (w : Width) (e : Widen) :
    (s.prefetch f).load a w e = (s.after [prefetchEvent f s]).load a w e := rfl

/-- The slots after a prefetch. -/
theorem prefetch_slot (s : State) (f : ThumbFormat) (j : Fin 3) :
    (s.prefetch f).pipe.opcode.get j =
      if j = s.pipe.index + 2 then fetchedHalf s (s.reg pcReg) else s.pipe.opcode.get j := by
  rw [slot_prefetch, load_half_plain]
  simp only [eq_comm]

/-- The third slot before a refill. -/
theorem prefetch_slot_two (s : State) (f : ThumbFormat) : (s.prefetch f).pipe.opcode.get 2 = deadSlot s := by
  rw [prefetch_slot, deadSlot]
  generalize s.pipe.index = k
  fin_cases k <;> rfl

/-- An advance after an effect that touches neither the pipeline nor the PC. -/
theorem advances_of {b s u : State} (hindex : u.pipe.index = s.pipe.index)
    (hslot : ∀ j, u.pipe.opcode.get j =
      if j = s.pipe.index + 2 then fetchedHalf b (s.reg pcReg) else s.pipe.opcode.get j)
    (hpc : u.reg pcReg = s.reg pcReg) : Advances b s u.advance where
  pc := by rw [reg_advance, reg_setReg_same, hpc]
  index := by rw [index_advance, hindex]
  fetched := by rw [opcode_advance, hslot, if_pos rfl]
  kept k hk := by rw [opcode_advance, hslot, if_neg hk]

/-- A THUMB refill: the target, the next opcode, and the third slot as it was. -/
theorem refillsThumb_jump (u : State) (target : Word) :
    RefillsThumb target (u.pipe.opcode.get 2) u (u.jumpThumb target) where
  pc := by rw [reg_jumpThumb, reg_setReg_same]
  index := rfl
  first := by rw [slot_jumpThumb, if_neg (by decide), if_pos rfl]; rfl
  second := by rw [slot_jumpThumb, if_pos rfl]; rfl
  third := by rw [slot_jumpThumb, if_neg (by decide), if_neg (by decide)]

/-- An ARM refill. -/
theorem refillsArm_jump (u : State) (target : Word) : RefillsArm target (u.pipe.opcode.get 2) u (u.jumpArm target) where
  pc := by rw [reg_jumpArm, reg_setReg_same]
  index := rfl
  first := by rw [slot_jumpArm, if_neg (by decide), if_pos rfl]; rfl
  second := by rw [slot_jumpArm, if_pos rfl]; rfl
  third := by rw [slot_jumpArm, if_neg (by decide), if_neg (by decide)]

/-- The same, the bus before the refill given as another state's. -/
theorem refillsThumb_of {b u : State} {dead : Word} (target : Word) (h : u.pipe.opcode.get 2 = dead)
    (hr : u.regions = b.regions) (hm : u.mem = b.mem) (ht : u.trace = b.trace) :
    RefillsThumb target dead b (u.jumpThumb target) :=
  have r := refillsThumb_jump u target
  ⟨r.pc, r.index, r.first.trans (load_congr hr hm (by simp only [State.accesses, ht]) _ _ _),
    r.second.trans (load_congr (s := b.after _) (t := u.after _) hr hm
      (by simp only [State.accesses, trace_after, ht]) _ _ _), r.third.trans h⟩

theorem refillsArm_of {b u : State} {dead : Word} (target : Word) (h : u.pipe.opcode.get 2 = dead)
    (hr : u.regions = b.regions) (hm : u.mem = b.mem) (ht : u.trace = b.trace) :
    RefillsArm target dead b (u.jumpArm target) :=
  have r := refillsArm_jump u target
  ⟨r.pc, r.index, r.first.trans (load_congr hr hm (by simp only [State.accesses, ht]) _ _ _),
    r.second.trans (load_congr (s := b.after _) (t := u.after _) hr hm
      (by simp only [State.accesses, trace_after, ht]) _ _ _), r.third.trans h⟩

/-! ## Frames -/

theorem sameMemory_of {s t : State} (h : t.mem = s.mem) : SameMemory s t := fun _ => by rw [h]

theorem frame_refl (s : State) : Frame [] [] [] s s := ⟨fun _ _ => rfl, fun _ _ => rfl, rfl, rfl, rfl, rfl, (List.append_nil _).symm⟩

/-- Frames compose. -/
theorem frame_trans {rs rs' : List Reg} {bs bs' : List Nat} {es es' : List BusEvent} {s t u : State}
    (h : Frame rs bs es s t) (h' : Frame rs' bs' es' t u) : Frame (rs ++ rs') (bs ++ bs') (es ++ es') s u where
  otherRegs r hr := by
    rw [List.mem_append, not_or] at hr
    rw [h'.otherRegs r hr.2, h.otherRegs r hr.1]
  otherBits i hi := by
    rw [List.mem_append, not_or] at hi
    rw [h'.otherBits i hi.2, h.otherBits i hi.1]
  bank := h'.bank.trans h.bank
  spsr := h'.spsr.trans h.spsr
  regions := h'.regions.trans h.regions
  irqLine := h'.irqLine.trans h.irqLine
  trace := by rw [h'.trace, h.trace, List.append_assoc]

/-- A frame may be widened. -/
theorem frame_mono {rs rs' : List Reg} {bs bs' : List Nat} {es es' : List BusEvent} {s t : State}
    (h : Frame rs bs es s t) (hr : ∀ r, r ∈ rs → r ∈ rs') (hb : ∀ i, i ∈ bs → i ∈ bs') (he : es = es') :
    Frame rs' bs' es' s t where
  otherRegs r hn := h.otherRegs r fun m => hn (hr r m)
  otherBits i hn := h.otherBits i fun m => hn (hb i m)
  bank := h.bank
  spsr := h.spsr
  regions := h.regions
  irqLine := h.irqLine
  trace := he ▸ h.trace

theorem frame_prefetch (s : State) (f : ThumbFormat) : Frame [] [] [prefetchEvent f s] s (s.prefetch f) :=
  ⟨fun _ _ => rfl, fun _ _ => rfl, rfl, rfl, rfl, rfl, rfl⟩

theorem frame_setReg (s : State) (r : Reg) (v : Word) : Frame [r] [] [] s (s.setReg r v) :=
  ⟨fun q hq => reg_setReg_of_ne s v (by simpa using hq), fun _ _ => rfl, rfl, rfl, rfl, rfl, (List.append_nil _).symm⟩

theorem frame_setCpsr (s : State) {p : Word} {bits : List Nat} (h : ∀ i, i ∉ bits → p.getLsbD i = s.cpsr.getLsbD i) :
    Frame [] bits [] s (s.setCpsr p) := ⟨fun _ _ => rfl, h, rfl, rfl, rfl, rfl, (List.append_nil _).symm⟩

theorem frame_emit (s : State) (e : BusEvent) : Frame [] [] [e] s (s.emit e) :=
  ⟨fun _ _ => rfl, fun _ _ => rfl, rfl, rfl, rfl, rfl, rfl⟩

theorem frame_store (s : State) (a : Word) (w : Width) (v : Word) (tag : SeqTag) :
    Frame [] [] [.write a w (w.trunc v) tag] s (s.store a w v tag) :=
  ⟨fun _ _ => rfl, fun _ _ => rfl, rfl, rfl, rfl, rfl, rfl⟩

theorem frame_loadReg (s : State) (r : Reg) (a : Word) (w : Width) (tag : SeqTag) (e : Widen) :
    Frame [r] [] [.read a w tag e] s (s.loadReg r a w tag e) :=
  ⟨fun q hq => reg_setReg_of_ne s _ (by simpa using hq), fun _ _ => rfl, rfl, rfl, rfl, rfl, rfl⟩

theorem frame_advance (s : State) : Frame [pcReg] [] [] s s.advance :=
  ⟨fun q hq => reg_setReg_of_ne s _ (by simpa using hq), fun _ _ => rfl, rfl, rfl, rfl, rfl, (List.append_nil _).symm⟩

theorem frame_jumpThumb (s : State) (t : Word) : Frame [pcReg] [] (refillThumbEvents t) s (s.jumpThumb t) :=
  ⟨fun q hq => by rw [reg_jumpThumb]; exact reg_setReg_of_ne s _ (by simpa using hq),
    fun _ _ => rfl, rfl, rfl, rfl, rfl, by rw [trace_jumpThumb, List.append_assoc]; rfl⟩

theorem frame_jumpArm (s : State) (t : Word) : Frame [pcReg] [] (refillArmEvents t) s (s.jumpArm t) :=
  ⟨fun q hq => by rw [reg_jumpArm]; exact reg_setReg_of_ne s _ (by simpa using hq),
    fun _ _ => rfl, rfl, rfl, rfl, rfl, by rw [trace_jumpArm, List.append_assoc]; rfl⟩

/-! ## Bits that the flag writes leave alone -/

theorem putNZ_others (r p : Word) : ∀ i, i ∉ [bitN, bitZ] → (putNZ r p).getLsbD i = p.getLsbD i := by
  intro i hi
  simp only [List.mem_cons, List.not_mem_nil, or_false, not_or] at hi
  rw [bit_putNZ, if_neg hi.2, if_neg hi.1]

theorem putNZC_others (r p : Word) (c : Bool) :
    ∀ i, i ∉ [bitN, bitZ, bitC] → (putNZC r c p).getLsbD i = p.getLsbD i := by
  intro i hi
  simp only [List.mem_cons, List.not_mem_nil, or_false, not_or] at hi
  rw [bit_putNZC, if_neg hi.2.2, bit_putNZ, if_neg hi.2.1, if_neg hi.1]

theorem putNZCV_others (f : Arith) (p : Word) :
    ∀ i, i ∉ [bitN, bitZ, bitC, bitV] → (putNZCV f p).getLsbD i = p.getLsbD i := by
  intro i hi
  simp only [List.mem_cons, List.not_mem_nil, or_false, not_or] at hi
  rw [bit_putNZCV, if_neg hi.2.2.2, bit_putNZC, if_neg hi.2.2.1, bit_putNZ, if_neg hi.2.1, if_neg hi.1]

/-! ## Register-only shapes -/

/-- A prefetch, a register write other than the PC, a CPSR write, and the advance. -/
theorem quiet_write (f : ThumbFormat) (r : Reg) (v p : Word) (bits : List Nat) (s : State) (hr : r ≠ pcReg)
    (hp : ∀ i, i ∉ bits → p.getLsbD i = s.cpsr.getLsbD i) :
    Quiet f [r] bits s (((s.prefetch f).setReg r v).setCpsr p).advance where
  frame := by
    refine frame_mono (frame_trans (frame_trans (frame_trans (frame_prefetch s f) (frame_setReg _ r v))
      (frame_setCpsr _ (bits := bits) hp)) (frame_advance _)) ?_ ?_ rfl
    · simp
    · simp
  memory := sameMemory_of rfl
  advances := advances_of rfl (prefetch_slot s f) (reg_setReg_of_ne _ v (Ne.symm hr))

/-- A prefetch and the advance. -/
theorem quiet_none (f : ThumbFormat) (s : State) : Quiet f [] [] s (s.prefetch f).advance where
  frame := frame_trans (frame_prefetch s f) (frame_advance _)
  memory := sameMemory_of rfl
  advances := advances_of rfl (prefetch_slot s f) rfl

/-- A prefetch, a CPSR write, and the advance. -/
theorem quiet_status (f : ThumbFormat) (p : Word) (bits : List Nat) (s : State)
    (hp : ∀ i, i ∉ bits → p.getLsbD i = s.cpsr.getLsbD i) :
    Quiet f [] bits s ((s.prefetch f).setCpsr p).advance where
  frame := by
    refine frame_mono (frame_trans (frame_trans (frame_prefetch s f)
      (frame_setCpsr _ (bits := bits) hp)) (frame_advance _)) ?_ ?_ rfl
    · simp
    · simp
  memory := sameMemory_of rfl
  advances := advances_of rfl (prefetch_slot s f) rfl

theorem arithOp_spec (f : ThumbFormat) (rd : LowReg) (r : Arith) (s : State) :
    ∃ t, arithOp f rd r s = .next t ∧ t.reg (low rd) = r.value ∧ SetsNZ r.value t ∧ psrC t.cpsr = r.carry ∧
      psrV t.cpsr = r.overflow ∧ Quiet f [low rd] [bitN, bitZ, bitC, bitV] s t :=
  ⟨_, rfl, by rw [reg_advance, reg_setReg_of_ne _ _ (low_ne_pc rd)]; exact reg_setReg_same _ _ _,
    ⟨psrN_putNZCV r _, psrZ_putNZCV r _⟩, psrC_putNZCV r _, psrV_putNZCV r _,
    quiet_write f _ _ _ _ s (low_ne_pc rd) (putNZCV_others r _)⟩

theorem compareOp_spec (f : ThumbFormat) (r : Arith) (s : State) :
    ∃ t, compareOp f r s = .next t ∧ SetsNZ r.value t ∧ psrC t.cpsr = r.carry ∧ psrV t.cpsr = r.overflow ∧
      Quiet f [] [bitN, bitZ, bitC, bitV] s t :=
  ⟨_, rfl, ⟨psrN_putNZCV r _, psrZ_putNZCV r _⟩, psrC_putNZCV r _, psrV_putNZCV r _,
    quiet_status f _ _ s (putNZCV_others r _)⟩

theorem shiftOp_spec (f : ThumbFormat) (rd : LowReg) (r : Shifted) (s : State) :
    ∃ t, shiftOp f rd r s = .next t ∧ t.reg (low rd) = r.value ∧ SetsNZ r.value t ∧ psrC t.cpsr = r.carry ∧
      Quiet f [low rd] [bitN, bitZ, bitC] s t :=
  ⟨_, rfl, by rw [reg_advance, reg_setReg_of_ne _ _ (low_ne_pc rd)]; exact reg_setReg_same _ _ _,
    ⟨psrN_putNZC _ _ _, psrZ_putNZC _ _ _⟩, psrC_putNZC _ _ _,
    quiet_write f _ _ _ _ s (low_ne_pc rd) (putNZC_others _ _ _)⟩

theorem logicOp_spec (f : ThumbFormat) (rd : LowReg) (r : Word) (s : State) :
    ∃ t, logicOp f rd r s = .next t ∧ t.reg (low rd) = r ∧ SetsNZ r t ∧ Quiet f [low rd] [bitN, bitZ] s t :=
  ⟨_, rfl, by rw [reg_advance, reg_setReg_of_ne _ _ (low_ne_pc rd)]; exact reg_setReg_same _ _ _,
    ⟨psrN_putNZ _ _, psrZ_putNZ _ _⟩, quiet_write f _ _ _ _ s (low_ne_pc rd) (putNZ_others _ _)⟩

theorem testOp_spec (f : ThumbFormat) (r : Word) (s : State) :
    ∃ t, testOp f r s = .next t ∧ SetsNZ r t ∧ Quiet f [] [bitN, bitZ] s t :=
  ⟨_, rfl, ⟨psrN_putNZ _ _, psrZ_putNZ _ _⟩, quiet_status f _ _ s (putNZ_others _ _)⟩

theorem moveOp_spec (f : ThumbFormat) (r : Reg) (v : Word) (s : State) (hr : r ≠ pcReg) :
    ∃ t, moveOp f r v s = .next t ∧ t.reg r = v ∧ t.cpsr = s.cpsr ∧ Quiet f [r] [] s t :=
  ⟨_, rfl, by rw [reg_advance, reg_setReg_of_ne _ _ hr]; exact reg_setReg_same _ _ _, rfl,
    quiet_write f r v s.cpsr [] s hr fun _ _ => rfl⟩

/-! ## Loads and stores -/

theorem store_stored (s : State) (a : Word) (w : Width) (v : Word) (tag : SeqTag) (hm : s.mem.wf = true) :
    Stored a w v s (s.store a w v tag) where
  stored hr i hi := by
    rw [mem_store, read_busStore _ _ _ _ hm, if_pos ⟨hr, by omega, by omega⟩, Nat.add_sub_cancel_left]
  others k hk := by
    rw [mem_store, read_busStore _ _ _ _ hm, if_neg]
    rintro ⟨hr, h1, h2⟩
    exact hk hr (k - (w.align a).toNat) (by omega) (by omega)

theorem loadOp_spec (f : ThumbFormat) (rd : LowReg) (a : Word) (w : Width) (e : Widen) (s : State) :
    ∃ t, loadOp f rd a w e s = .next t ∧ t.reg (low rd) = (s.after [prefetchEvent f s]).load a w e ∧
      Frame [pcReg, low rd] [] [prefetchEvent f s, .read a w .nonseq e] s t ∧ SameMemory s t ∧ Advances s s t := by
  refine ⟨_, rfl, ?_, ?_, sameMemory_of rfl, advances_of rfl (prefetch_slot s f) (reg_setReg_of_ne _ _ (pc_ne_low rd))⟩
  · rw [reg_advance, reg_setReg_of_ne _ _ (low_ne_pc rd)]
    exact reg_setReg_same _ _ _
  · refine frame_mono (frame_trans (frame_trans (frame_prefetch s f) (frame_loadReg _ _ a w .nonseq e))
      (frame_advance _)) ?_ ?_ rfl <;> simp

theorem loadInternalOp_spec (f : ThumbFormat) (rd : LowReg) (a : Word) (w : Width) (e : Widen) (s : State) :
    ∃ t, loadInternalOp f rd a w e s = .next t ∧ t.reg (low rd) = (s.after [prefetchEvent f s]).load a w e ∧
      Frame [pcReg, low rd] [] [prefetchEvent f s, .read a w .nonseq e, .internal 1] s t ∧ SameMemory s t ∧
      Advances s s t := by
  refine ⟨_, rfl, ?_, ?_, sameMemory_of rfl, advances_of rfl (prefetch_slot s f) (reg_setReg_of_ne _ _ (pc_ne_low rd))⟩
  · rw [reg_advance, reg_setReg_of_ne _ _ (low_ne_pc rd)]
    exact reg_setReg_same _ _ _
  · refine frame_mono (frame_trans (frame_trans (frame_trans (frame_prefetch s f) (frame_loadReg _ _ a w .nonseq e))
      (frame_emit _ (.internal 1))) (frame_advance _)) ?_ ?_ rfl <;> simp

theorem storeOp_spec (f : ThumbFormat) (a : Word) (w : Width) (v : Word) (s : State) (hm : s.mem.wf = true) :
    ∃ t, storeOp f a w v s = .next t ∧ Stored a w v s t ∧
      Frame [pcReg] [] [prefetchEvent f s, .write a w (w.trunc v) .nonseq] s t ∧ Advances s s t := by
  refine ⟨_, rfl, ?_, ?_, advances_of rfl (prefetch_slot s f) rfl⟩
  · have h := store_stored (s.prefetch f) a w v .nonseq hm
    exact ⟨h.stored, h.others⟩
  · refine frame_mono (frame_trans (frame_trans (frame_prefetch s f) (frame_store _ a w v .nonseq))
      (frame_advance _)) ?_ ?_ rfl <;> simp

/-! ## Control transfer -/

theorem branchOp_spec (f : ThumbFormat) (target : Word) (s : State) :
    ∃ t, branchOp f target s = .next t ∧ RefillsThumb target (deadSlot s) (s.after [prefetchEvent f s]) t ∧
      SameMemory s t ∧ Frame [pcReg] [] (prefetchEvent f s :: refillThumbEvents target) s t := by
  refine ⟨_, rfl, ?_, sameMemory_of rfl, ?_⟩
  · exact refillsThumb_of target (prefetch_slot_two s f) rfl rfl rfl
  · refine frame_mono (frame_trans (frame_prefetch s f) (frame_jumpThumb _ target)) ?_ ?_ rfl <;> simp

theorem condBranchOp_taken (c : Cond) (imm8 : BitVec 8) (s : State) (h : condPassed s.cpsr c = true) :
    condBranchOp c imm8 s = branchOp .t16 (branchTarget s imm8) s := if_pos h

theorem condBranchOp_notTaken (c : Cond) (imm8 : BitVec 8) (s : State) (h : condPassed s.cpsr c = false) :
    condBranchOp c imm8 s = .next (s.prefetch .t16).advance := by
  unfold condBranchOp
  rw [h]
  exact if_neg Bool.false_ne_true

/-! ## Modes -/

theorem switchMode_illegal (new : BitVec 5) (s : State) (h : legalMode (psrM s.cpsr) = false ∨ legalMode new = false) :
    switchMode new s = .fault .illegalMode := by
  simp only [← bankOf_isSome, Option.isSome_eq_false_iff, Option.isNone_iff_eq_none] at h
  unfold switchMode
  obtain h | h := h
  · rw [h]
  · rw [h]
    cases bankOf (psrM s.cpsr) <;> rfl

/-- A mode switch between legal modes answers a next state. -/
theorem switchMode_next (new : BitVec 5) (s : State) {bo bn : Bank} (ho : bankOf (psrM s.cpsr) = some bo)
    (hn : bankOf new = some bn) :
    switchMode new s = .next (if bo = bn then s.setCpsr (setPsrM new s.cpsr)
      else ((s.setCpsr (setPsrM new s.cpsr)).saveBank bo bn).restoreBank bo bn) := by
  unfold switchMode
  rw [ho, hn]
  by_cases h : bo = bn
  · simp [h]
  · simp [h]

end Sys2Proof.Machine
end

