-- ==== Sys2Proof/Laws/Modes.lean ====
section
/-! SUPPORT. The registers and the other fields through the two halves of a mode switch, the entry to a handler, and a
return. -/

namespace Sys2Proof.Machine

/-! ## Writing the banked group of active registers -/

theorem reg_putStack (s : State) (v : StackSlots) (q : Reg) :
    (s.putStack v).reg q = if q = 14 then v.r14 else if q = 13 then v.r13 else s.reg q := by
  simp only [State.putStack, reg_setReg, eq_comm]

theorem reg_putHigh (s : State) (v : HighSlots) (q : Reg) :
    (s.putHigh v).reg q =
      if q = 12 then v.r12 else if q = 11 then v.r11 else if q = 10 then v.r10 else if q = 9 then v.r9
      else if q = 8 then v.r8 else s.reg q := by
  simp only [State.putHigh, reg_setReg, eq_comm]

/-- `saveBank` writes the banks only. -/
theorem saveBank_rest (s : State) (bo bn : Bank) :
    (s.saveBank bo bn).x = s.x ∧ (s.saveBank bo bn).cpsr = s.cpsr ∧ (s.saveBank bo bn).spsr = s.spsr ∧
      (s.saveBank bo bn).pipe = s.pipe ∧ (s.saveBank bo bn).mem = s.mem ∧ (s.saveBank bo bn).irqLine = s.irqLine ∧
      (s.saveBank bo bn).trace = s.trace ∧ (s.saveBank bo bn).regions = s.regions :=
  ⟨rfl, rfl, rfl, rfl, rfl, rfl, rfl, rfl⟩

theorem saveBank_stack (s : State) (bo bn b : Bank) :
    (s.saveBank bo bn).bank.stack b = if b = bo then s.activeStack else s.bank.stack b := by
  cases bo <;> cases bn <;> cases b <;> rfl

theorem saveBank_fiqHigh (s : State) (bo bn : Bank) :
    (s.saveBank bo bn).bank.fiqHigh = if bo = .fiq then s.activeHigh else s.bank.fiqHigh := by
  cases bo <;> cases bn <;> rfl

theorem saveBank_usrHigh (s : State) (bo bn : Bank) :
    (s.saveBank bo bn).bank.usrHigh = if bo ≠ .fiq ∧ bn = .fiq then s.activeHigh else s.bank.usrHigh := by
  cases bo <;> cases bn <;> rfl

/-- `restoreBank` writes active registers only. -/
theorem restoreBank_rest (s : State) (bo bn : Bank) :
    (s.restoreBank bo bn).bank = s.bank ∧ (s.restoreBank bo bn).cpsr = s.cpsr ∧
      (s.restoreBank bo bn).spsr = s.spsr ∧ (s.restoreBank bo bn).pipe = s.pipe ∧
      (s.restoreBank bo bn).mem = s.mem ∧ (s.restoreBank bo bn).irqLine = s.irqLine ∧
      (s.restoreBank bo bn).trace = s.trace ∧ (s.restoreBank bo bn).regions = s.regions := by
  unfold State.restoreBank
  dsimp only
  split
  · exact ⟨rfl, rfl, rfl, rfl, rfl, rfl, rfl, rfl⟩
  · split <;> exact ⟨rfl, rfl, rfl, rfl, rfl, rfl, rfl, rfl⟩

/-- `restoreBank` leaves R0 to R7 and R15. -/
theorem restoreBank_low (s : State) (bo bn : Bank) (q : Reg) (h : q < 8 ∨ q = 15) :
    (s.restoreBank bo bn).reg q = s.reg q := by
  have h14 : q ≠ 14 := by rintro rfl; revert h; decide
  have h13 : q ≠ 13 := by rintro rfl; revert h; decide
  have h12 : q ≠ 12 := by rintro rfl; revert h; decide
  have h11 : q ≠ 11 := by rintro rfl; revert h; decide
  have h10 : q ≠ 10 := by rintro rfl; revert h; decide
  have h9 : q ≠ 9 := by rintro rfl; revert h; decide
  have h8 : q ≠ 8 := by rintro rfl; revert h; decide
  unfold State.restoreBank
  dsimp only
  split
  · rw [reg_putHigh, if_neg h12, if_neg h11, if_neg h10, if_neg h9, if_neg h8, reg_putStack, if_neg h14, if_neg h13]
  · split
    · rw [reg_putHigh, if_neg h12, if_neg h11, if_neg h10, if_neg h9, if_neg h8, reg_putStack, if_neg h14, if_neg h13]
    · rw [reg_putStack, if_neg h14, if_neg h13]

/-- A mode switch between legal modes changes nothing but the mode bits, the active R8 to R14 and the banks. -/
theorem switchMode_rest {new : BitVec 5} {s t : State} (h : switchMode new s = .next t) :
    t.cpsr = setPsrM new s.cpsr ∧ t.spsr = s.spsr ∧ t.pipe = s.pipe ∧ t.mem = s.mem ∧ t.irqLine = s.irqLine ∧
      t.trace = s.trace ∧ t.regions = s.regions ∧ ∀ q : Reg, q < 8 ∨ q = 15 → t.reg q = s.reg q := by
  unfold switchMode at h
  split at h
  · rename_i bo bn _ _
    dsimp only at h
    split at h
    · simp only [Host.Outcome.next.injEq] at h
      subst h
      exact ⟨rfl, rfl, rfl, rfl, rfl, rfl, rfl, fun _ _ => rfl⟩
    · simp only [Host.Outcome.next.injEq] at h
      subst h
      obtain ⟨-, h2, h3, h4, h5, h6, h7, h8⟩ := restoreBank_rest ((s.setCpsr (setPsrM new s.cpsr)).saveBank bo bn) bo bn
      exact ⟨h2, h3, h4, h5, h6, h7, h8, fun q hq => restoreBank_low _ _ _ q hq⟩
  · exact absurd h (by simp)

/-! ## The entry to a handler -/

/-- What is left to do after the mode switch of an exception entry (R301). -/
theorem enterHandler_rest (mode : Mode) (vector link old : Word) (s : State) :
    (enterHandler mode vector link old s).bank = s.bank ∧
      (enterHandler mode vector link old s).spsr = s.spsr.set mode.bank old ∧
      (enterHandler mode vector link old s).cpsr = setPsrT false (setPsrI true s.cpsr) ∧
      (enterHandler mode vector link old s).regions = s.regions ∧
      (enterHandler mode vector link old s).mem = s.mem ∧
      (enterHandler mode vector link old s).irqLine = s.irqLine ∧
      (enterHandler mode vector link old s).trace = s.trace ++ refillArmEvents vector ∧
      RefillsArm vector (s.pipe.opcode.get 2) s (enterHandler mode vector link old s) ∧
      (enterHandler mode vector link old s).reg lrReg = link ∧
      ∀ q, q ≠ pcReg → q ≠ lrReg → (enterHandler mode vector link old s).reg q = s.reg q := by
  refine ⟨rfl, rfl, rfl, rfl, rfl, rfl, ?_, ?_, ?_, ?_⟩
  · rw [enterHandler, trace_jumpArm, List.append_assoc]
    rfl
  · rw [enterHandler]
    exact refillsArm_of vector rfl rfl rfl rfl
  · rw [enterHandler, reg_jumpArm, reg_setReg_of_ne _ _ (by decide)]
    exact reg_setReg_same _ _ _
  · intro q hp hl
    rw [enterHandler, reg_jumpArm, reg_setReg_of_ne _ _ hp]
    exact reg_setReg_of_ne _ _ hl

/-! ## Reading an SPSR back -/

theorem spsr_get_set (p : Spsrs) (b c : Bank) (v : Word) (h : b ≠ .usr) :
    (p.set b v).get c = if c = b then some v else p.get c := by
  cases b <;> cases c <;> first | rfl | exact absurd rfl h

/-! ## Where a THUMB program starts -/

/-- `StartThumb` (R351). -/
theorem startThumb_rest (entry : Word) (s : State) :
    RefillsThumb entry (s.pipe.opcode.get 2) s (startThumb entry s) ∧ (startThumb entry s).mem = s.mem ∧
      Frame [pcReg] [5] (refillThumbEvents entry) s (startThumb entry s) := by
  refine ⟨by rw [startThumb]; exact refillsThumb_of entry rfl rfl rfl rfl, rfl, ?_⟩
  refine frame_mono (frame_trans (frame_setCpsr s (bits := [5]) ?_) (frame_jumpThumb _ entry)) (by simp) (by simp) rfl
  intro i hi
  rw [setPsrT, bit_setBit _ _ _ (by decide), if_neg (by simpa using hi)]

end Sys2Proof.Machine
end

