-- ==== Sys2Proof/Laws/PerInstr.lean ====
section
/-! SUPPORT. A statement about every instruction as syntax, one lemma per constructor: its encoding lies in the row of
the opcode table that carries its mnemonic. -/

namespace Sys2Proof.Laws.RowFits

/-- The encoding of a well-formed instruction lies in a row of the table with its mnemonic. -/
def Statement (i : Instr) : Prop :=
  i.wellFormed = true → ∃ r ∈ opcodeTable, r.mnemonic = i.mnemonic ∧ r.covers (encodeOp i) = true

/-- One row of the table is enough. -/
theorem of_row {i : Instr} (r : OpcodeRow) (hr : r ∈ opcodeTable) (hm : r.mnemonic = i.mnemonic)
    (hc : encodeOp i &&& r.mask = r.pattern) : Statement i := fun _ => ⟨r, hr, hm, beq_iff_eq.mpr hc⟩

/-- The fixed bits of an encoding are kept by their mask. -/
theorem fixed {m : Nat} (c : BitVec m) : c &&& BitVec.allOnes m = c := BitVec.and_allOnes

/-- A field after masked bits is masked out. -/
theorem field {m n : Nat} {x mask p : BitVec m} (h : x &&& mask = p) (y : BitVec n) :
    (x ++ y) &&& (mask ++ 0#n) = p ++ 0#n := by
  rw [BitVec.and_append, h, BitVec.and_zero]

/-- The upper byte of an opcode, masked out. -/
theorem mask_top (op : Opcode) : op &&& 0xFF00 = op.extractLsb' 8 8 ++ 0#8 := by
  apply BitVec.eq_of_getLsbD_eq
  intro j hj
  have h : (0xFF00 : Opcode).getLsbD j = decide (8 ≤ j) := by
    revert hj; revert j; decide
  rw [BitVec.getLsbD_and, h, BitVec.getLsbD_append, BitVec.getLsbD_extractLsb']
  by_cases h8 : j < 8
  · simp [h8]
  · simp [h8, show 8 ≤ j by omega, show j - 8 < 8 by omega, show 8 + (j - 8) = j by omega]

theorem lslImm (rd rs : LowReg) (imm5 : BitVec 5) : Statement (.lslImm rd rs imm5) :=
  of_row ⟨"LSL_Rd__Rs___imm5", 0x0000, 0xF800⟩ (by decide) rfl
    (field (field (field (fixed 0b00000#5) imm5) (lowBits rs)) (lowBits rd))

theorem lsrImm (rd rs : LowReg) (imm5 : BitVec 5) : Statement (.lsrImm rd rs imm5) :=
  of_row ⟨"LSR_Rd__Rs___imm5", 0x0800, 0xF800⟩ (by decide) rfl
    (field (field (field (fixed 0b00001#5) imm5) (lowBits rs)) (lowBits rd))

theorem asrImm (rd rs : LowReg) (imm5 : BitVec 5) : Statement (.asrImm rd rs imm5) :=
  of_row ⟨"ASR_Rd__Rs___imm5", 0x1000, 0xF800⟩ (by decide) rfl
    (field (field (field (fixed 0b00010#5) imm5) (lowBits rs)) (lowBits rd))

theorem addReg (rd rs rn : LowReg) : Statement (.addReg rd rs rn) :=
  of_row ⟨"ADD_Rd__Rs__Rn", 0x1800, 0xFE00⟩ (by decide) rfl
    (field (field (field (fixed 0b0001100#7) (lowBits rn)) (lowBits rs)) (lowBits rd))

theorem subReg (rd rs rn : LowReg) : Statement (.subReg rd rs rn) :=
  of_row ⟨"SUB_Rd__Rs__Rn", 0x1A00, 0xFE00⟩ (by decide) rfl
    (field (field (field (fixed 0b0001101#7) (lowBits rn)) (lowBits rs)) (lowBits rd))

theorem addImm3 (rd rs : LowReg) (imm3 : BitVec 3) : Statement (.addImm3 rd rs imm3) :=
  of_row ⟨"ADD_Rd__Rs___imm3", 0x1C00, 0xFE00⟩ (by decide) rfl
    (field (field (field (fixed 0b0001110#7) imm3) (lowBits rs)) (lowBits rd))

theorem subImm3 (rd rs : LowReg) (imm3 : BitVec 3) : Statement (.subImm3 rd rs imm3) :=
  of_row ⟨"SUB_Rd__Rs___imm3", 0x1E00, 0xFE00⟩ (by decide) rfl
    (field (field (field (fixed 0b0001111#7) imm3) (lowBits rs)) (lowBits rd))

theorem movImm8 (rd : LowReg) (imm8 : BitVec 8) : Statement (.movImm8 rd imm8) :=
  of_row ⟨"MOV_Rd___imm8", 0x2000, 0xF800⟩ (by decide) rfl
    (field (field (fixed 0b00100#5) (lowBits rd)) imm8)

theorem cmpImm8 (rd : LowReg) (imm8 : BitVec 8) : Statement (.cmpImm8 rd imm8) :=
  of_row ⟨"CMP_Rd___imm8", 0x2800, 0xF800⟩ (by decide) rfl
    (field (field (fixed 0b00101#5) (lowBits rd)) imm8)

theorem addImm8 (rd : LowReg) (imm8 : BitVec 8) : Statement (.addImm8 rd imm8) :=
  of_row ⟨"ADD_Rd___imm8", 0x3000, 0xF800⟩ (by decide) rfl
    (field (field (fixed 0b00110#5) (lowBits rd)) imm8)

theorem subImm8 (rd : LowReg) (imm8 : BitVec 8) : Statement (.subImm8 rd imm8) :=
  of_row ⟨"SUB_Rd___imm8", 0x3800, 0xF800⟩ (by decide) rfl
    (field (field (fixed 0b00111#5) (lowBits rd)) imm8)

theorem andAlu (rd rs : LowReg) : Statement (.andAlu rd rs) :=
  of_row ⟨"AND_Rd__Rs", 0x4000, 0xFFC0⟩ (by decide) rfl
    (field (field (fixed 0b0100000000#10) (lowBits rs)) (lowBits rd))

theorem eorAlu (rd rs : LowReg) : Statement (.eorAlu rd rs) :=
  of_row ⟨"EOR_Rd__Rs", 0x4040, 0xFFC0⟩ (by decide) rfl
    (field (field (fixed 0b0100000001#10) (lowBits rs)) (lowBits rd))

theorem lslAlu (rd rs : LowReg) : Statement (.lslAlu rd rs) :=
  of_row ⟨"LSL_Rd__Rs", 0x4080, 0xFFC0⟩ (by decide) rfl
    (field (field (fixed 0b0100000010#10) (lowBits rs)) (lowBits rd))

theorem lsrAlu (rd rs : LowReg) : Statement (.lsrAlu rd rs) :=
  of_row ⟨"LSR_Rd__Rs", 0x40C0, 0xFFC0⟩ (by decide) rfl
    (field (field (fixed 0b0100000011#10) (lowBits rs)) (lowBits rd))

theorem asrAlu (rd rs : LowReg) : Statement (.asrAlu rd rs) :=
  of_row ⟨"ASR_Rd__Rs", 0x4100, 0xFFC0⟩ (by decide) rfl
    (field (field (fixed 0b0100000100#10) (lowBits rs)) (lowBits rd))

theorem adcAlu (rd rs : LowReg) : Statement (.adcAlu rd rs) :=
  of_row ⟨"ADC_Rd__Rs", 0x4140, 0xFFC0⟩ (by decide) rfl
    (field (field (fixed 0b0100000101#10) (lowBits rs)) (lowBits rd))

theorem sbcAlu (rd rs : LowReg) : Statement (.sbcAlu rd rs) :=
  of_row ⟨"SBC_Rd__Rs", 0x4180, 0xFFC0⟩ (by decide) rfl
    (field (field (fixed 0b0100000110#10) (lowBits rs)) (lowBits rd))

theorem rorAlu (rd rs : LowReg) : Statement (.rorAlu rd rs) :=
  of_row ⟨"ROR_Rd__Rs", 0x41C0, 0xFFC0⟩ (by decide) rfl
    (field (field (fixed 0b0100000111#10) (lowBits rs)) (lowBits rd))

theorem tstAlu (rd rs : LowReg) : Statement (.tstAlu rd rs) :=
  of_row ⟨"TST_Rd__Rs", 0x4200, 0xFFC0⟩ (by decide) rfl
    (field (field (fixed 0b0100001000#10) (lowBits rs)) (lowBits rd))

theorem negAlu (rd rs : LowReg) : Statement (.negAlu rd rs) :=
  of_row ⟨"NEG_Rd__Rs", 0x4240, 0xFFC0⟩ (by decide) rfl
    (field (field (fixed 0b0100001001#10) (lowBits rs)) (lowBits rd))

theorem cmpAlu (rd rs : LowReg) : Statement (.cmpAlu rd rs) :=
  of_row ⟨"CMP_Rd__Rs", 0x4280, 0xFFC0⟩ (by decide) rfl
    (field (field (fixed 0b0100001010#10) (lowBits rs)) (lowBits rd))

theorem cmnAlu (rd rs : LowReg) : Statement (.cmnAlu rd rs) :=
  of_row ⟨"CMN_Rd__Rs", 0x42C0, 0xFFC0⟩ (by decide) rfl
    (field (field (fixed 0b0100001011#10) (lowBits rs)) (lowBits rd))

theorem orrAlu (rd rs : LowReg) : Statement (.orrAlu rd rs) :=
  of_row ⟨"ORR_Rd__Rs", 0x4300, 0xFFC0⟩ (by decide) rfl
    (field (field (fixed 0b0100001100#10) (lowBits rs)) (lowBits rd))

theorem mulAlu (rd rs : LowReg) : Statement (.mulAlu rd rs) :=
  of_row ⟨"MUL_Rd__Rs", 0x4340, 0xFFC0⟩ (by decide) rfl
    (field (field (fixed 0b0100001101#10) (lowBits rs)) (lowBits rd))

theorem bicAlu (rd rs : LowReg) : Statement (.bicAlu rd rs) :=
  of_row ⟨"BIC_Rd__Rs", 0x4380, 0xFFC0⟩ (by decide) rfl
    (field (field (fixed 0b0100001110#10) (lowBits rs)) (lowBits rd))

theorem mvnAlu (rd rs : LowReg) : Statement (.mvnAlu rd rs) :=
  of_row ⟨"MVN_Rd__Rs", 0x43C0, 0xFFC0⟩ (by decide) rfl
    (field (field (fixed 0b0100001111#10) (lowBits rs)) (lowBits rd))

theorem addHi (rd rs : Reg) : Statement (.addHi rd rs) :=
  of_row ⟨"ADD_Rd__Rs__hi", 0x4400, 0xFF00⟩ (by decide) rfl
    (field (field (field (field (fixed 0b01000100#8) (highBit rd)) (highBit rs)) (lowThree rs)) (lowThree rd))

theorem cmpHi (rd rs : Reg) : Statement (.cmpHi rd rs) :=
  of_row ⟨"CMP_Rd__Rs__hi", 0x4500, 0xFF00⟩ (by decide) rfl
    (field (field (field (field (fixed 0b01000101#8) (highBit rd)) (highBit rs)) (lowThree rs)) (lowThree rd))

theorem movHi (rd rs : Reg) : Statement (.movHi rd rs) :=
  of_row ⟨"MOV_Rd__Rs__hi", 0x4600, 0xFF00⟩ (by decide) rfl
    (field (field (field (field (fixed 0b01000110#8) (highBit rd)) (highBit rs)) (lowThree rs)) (lowThree rd))

theorem bx (rs : Reg) (h1 : BitVec 1) (rdBits : BitVec 3) : Statement (.bx rs h1 rdBits) :=
  of_row ⟨"BX_Rs", 0x4700, 0xFF00⟩ (by decide) rfl
    (field (field (field (field (fixed 0b01000111#8) h1) (highBit rs)) (lowThree rs)) rdBits)

theorem ldrPc (rd : LowReg) (imm8 : BitVec 8) : Statement (.ldrPc rd imm8) :=
  of_row ⟨"LDR_Rd___PC___imm8_4", 0x4800, 0xF800⟩ (by decide) rfl
    (field (field (fixed 0b01001#5) (lowBits rd)) imm8)

theorem strRo (rd rb ro : LowReg) : Statement (.strRo rd rb ro) :=
  of_row ⟨"STR_Rd___Rb__Ro", 0x5000, 0xFE00⟩ (by decide) rfl
    (field (field (field (fixed 0b0101000#7) (lowBits ro)) (lowBits rb)) (lowBits rd))

theorem strbRo (rd rb ro : LowReg) : Statement (.strbRo rd rb ro) :=
  of_row ⟨"STRB_Rd___Rb__Ro", 0x5400, 0xFE00⟩ (by decide) rfl
    (field (field (field (fixed 0b0101010#7) (lowBits ro)) (lowBits rb)) (lowBits rd))

theorem ldrRo (rd rb ro : LowReg) : Statement (.ldrRo rd rb ro) :=
  of_row ⟨"LDR_Rd___Rb__Ro", 0x5800, 0xFE00⟩ (by decide) rfl
    (field (field (field (fixed 0b0101100#7) (lowBits ro)) (lowBits rb)) (lowBits rd))

theorem ldrbRo (rd rb ro : LowReg) : Statement (.ldrbRo rd rb ro) :=
  of_row ⟨"LDRB_Rd___Rb__Ro", 0x5C00, 0xFE00⟩ (by decide) rfl
    (field (field (field (fixed 0b0101110#7) (lowBits ro)) (lowBits rb)) (lowBits rd))

theorem strhRo (rd rb ro : LowReg) : Statement (.strhRo rd rb ro) :=
  of_row ⟨"STRH_Rd___Rb__Ro", 0x5200, 0xFE00⟩ (by decide) rfl
    (field (field (field (fixed 0b0101001#7) (lowBits ro)) (lowBits rb)) (lowBits rd))

theorem ldsbRo (rd rb ro : LowReg) : Statement (.ldsbRo rd rb ro) :=
  of_row ⟨"LDSB_Rd___Rb__Ro", 0x5600, 0xFE00⟩ (by decide) rfl
    (field (field (field (fixed 0b0101011#7) (lowBits ro)) (lowBits rb)) (lowBits rd))

theorem ldrhRo (rd rb ro : LowReg) : Statement (.ldrhRo rd rb ro) :=
  of_row ⟨"LDRH_Rd___Rb__Ro", 0x5A00, 0xFE00⟩ (by decide) rfl
    (field (field (field (fixed 0b0101101#7) (lowBits ro)) (lowBits rb)) (lowBits rd))

theorem ldshRo (rd rb ro : LowReg) : Statement (.ldshRo rd rb ro) :=
  of_row ⟨"LDSH_Rd___Rb__Ro", 0x5E00, 0xFE00⟩ (by decide) rfl
    (field (field (field (fixed 0b0101111#7) (lowBits ro)) (lowBits rb)) (lowBits rd))

theorem strImm (rd rb : LowReg) (imm5 : BitVec 5) : Statement (.strImm rd rb imm5) :=
  of_row ⟨"STR_Rd___Rb___imm5_4", 0x6000, 0xF800⟩ (by decide) rfl
    (field (field (field (fixed 0b01100#5) imm5) (lowBits rb)) (lowBits rd))

theorem ldrImm (rd rb : LowReg) (imm5 : BitVec 5) : Statement (.ldrImm rd rb imm5) :=
  of_row ⟨"LDR_Rd___Rb___imm5_4", 0x6800, 0xF800⟩ (by decide) rfl
    (field (field (field (fixed 0b01101#5) imm5) (lowBits rb)) (lowBits rd))

theorem strbImm (rd rb : LowReg) (imm5 : BitVec 5) : Statement (.strbImm rd rb imm5) :=
  of_row ⟨"STRB_Rd___Rb___imm5", 0x7000, 0xF800⟩ (by decide) rfl
    (field (field (field (fixed 0b01110#5) imm5) (lowBits rb)) (lowBits rd))

theorem ldrbImm (rd rb : LowReg) (imm5 : BitVec 5) : Statement (.ldrbImm rd rb imm5) :=
  of_row ⟨"LDRB_Rd___Rb___imm5", 0x7800, 0xF800⟩ (by decide) rfl
    (field (field (field (fixed 0b01111#5) imm5) (lowBits rb)) (lowBits rd))

theorem strhImm (rd rb : LowReg) (imm5 : BitVec 5) : Statement (.strhImm rd rb imm5) :=
  of_row ⟨"STRH_Rd___Rb___imm5_2", 0x8000, 0xF800⟩ (by decide) rfl
    (field (field (field (fixed 0b10000#5) imm5) (lowBits rb)) (lowBits rd))

theorem ldrhImm (rd rb : LowReg) (imm5 : BitVec 5) : Statement (.ldrhImm rd rb imm5) :=
  of_row ⟨"LDRH_Rd___Rb___imm5_2", 0x8800, 0xF800⟩ (by decide) rfl
    (field (field (field (fixed 0b10001#5) imm5) (lowBits rb)) (lowBits rd))

theorem strSp (rd : LowReg) (imm8 : BitVec 8) : Statement (.strSp rd imm8) :=
  of_row ⟨"STR_Rd___SP___imm8_4", 0x9000, 0xF800⟩ (by decide) rfl
    (field (field (fixed 0b10010#5) (lowBits rd)) imm8)

theorem ldrSp (rd : LowReg) (imm8 : BitVec 8) : Statement (.ldrSp rd imm8) :=
  of_row ⟨"LDR_Rd___SP___imm8_4", 0x9800, 0xF800⟩ (by decide) rfl
    (field (field (fixed 0b10011#5) (lowBits rd)) imm8)

theorem addPc (rd : LowReg) (imm8 : BitVec 8) : Statement (.addPc rd imm8) :=
  of_row ⟨"ADD_Rd__PC___imm8_4", 0xA000, 0xF800⟩ (by decide) rfl
    (field (field (fixed 0b10100#5) (lowBits rd)) imm8)

theorem addSp (rd : LowReg) (imm8 : BitVec 8) : Statement (.addSp rd imm8) :=
  of_row ⟨"ADD_Rd__SP___imm8_4", 0xA800, 0xF800⟩ (by decide) rfl
    (field (field (fixed 0b10101#5) (lowBits rd)) imm8)

theorem incSp (imm7 : BitVec 7) : Statement (.incSp imm7) :=
  of_row ⟨"ADD_SP___imm7_4", 0xB000, 0xFF80⟩ (by decide) rfl
    (field (fixed 0b101100000#9) imm7)

theorem decSp (imm7 : BitVec 7) : Statement (.decSp imm7) :=
  of_row ⟨"ADD_SP___-imm7_4", 0xB080, 0xFF80⟩ (by decide) rfl
    (field (fixed 0b101100001#9) imm7)

theorem push (lr : Bool) (rlist : BitVec 8) : Statement (.push lr rlist) :=
  of_row ⟨"PUSH__rlist___LR", 0xB400, 0xFE00⟩ (by decide) rfl
    (field (field (fixed 0b1011010#7) (BitVec.ofBool lr)) rlist)

theorem pop (pc : Bool) (rlist : BitVec 8) : Statement (.pop pc rlist) :=
  of_row ⟨"POP__rlist___PC", 0xBC00, 0xFE00⟩ (by decide) rfl
    (field (field (fixed 0b1011110#7) (BitVec.ofBool pc)) rlist)

theorem stmia (rb : LowReg) (rlist : BitVec 8) : Statement (.stmia rb rlist) :=
  of_row ⟨"STMIA_Rb____rlist", 0xC000, 0xF800⟩ (by decide) rfl
    (field (field (fixed 0b11000#5) (lowBits rb)) rlist)

theorem ldmia (rb : LowReg) (rlist : BitVec 8) : Statement (.ldmia rb rlist) :=
  of_row ⟨"LDMIA_Rb____rlist", 0xC800, 0xF800⟩ (by decide) rfl
    (field (field (fixed 0b11001#5) (lowBits rb)) rlist)

theorem beq (imm8 : BitVec 8) : Statement (.beq imm8) :=
  of_row ⟨"BEQ_label", 0xD000, 0xFF00⟩ (by decide) rfl
    (field (fixed 0b11010000#8) imm8)

theorem bne (imm8 : BitVec 8) : Statement (.bne imm8) :=
  of_row ⟨"BNE_label", 0xD100, 0xFF00⟩ (by decide) rfl
    (field (fixed 0b11010001#8) imm8)

theorem bcs (imm8 : BitVec 8) : Statement (.bcs imm8) :=
  of_row ⟨"BCS_label", 0xD200, 0xFF00⟩ (by decide) rfl
    (field (fixed 0b11010010#8) imm8)

theorem bcc (imm8 : BitVec 8) : Statement (.bcc imm8) :=
  of_row ⟨"BCC_label", 0xD300, 0xFF00⟩ (by decide) rfl
    (field (fixed 0b11010011#8) imm8)

theorem bmi (imm8 : BitVec 8) : Statement (.bmi imm8) :=
  of_row ⟨"BMI_label", 0xD400, 0xFF00⟩ (by decide) rfl
    (field (fixed 0b11010100#8) imm8)

theorem bpl (imm8 : BitVec 8) : Statement (.bpl imm8) :=
  of_row ⟨"BPL_label", 0xD500, 0xFF00⟩ (by decide) rfl
    (field (fixed 0b11010101#8) imm8)

theorem bvs (imm8 : BitVec 8) : Statement (.bvs imm8) :=
  of_row ⟨"BVS_label", 0xD600, 0xFF00⟩ (by decide) rfl
    (field (fixed 0b11010110#8) imm8)

theorem bvc (imm8 : BitVec 8) : Statement (.bvc imm8) :=
  of_row ⟨"BVC_label", 0xD700, 0xFF00⟩ (by decide) rfl
    (field (fixed 0b11010111#8) imm8)

theorem bhi (imm8 : BitVec 8) : Statement (.bhi imm8) :=
  of_row ⟨"BHI_label", 0xD800, 0xFF00⟩ (by decide) rfl
    (field (fixed 0b11011000#8) imm8)

theorem bls (imm8 : BitVec 8) : Statement (.bls imm8) :=
  of_row ⟨"BLS_label", 0xD900, 0xFF00⟩ (by decide) rfl
    (field (fixed 0b11011001#8) imm8)

theorem bge (imm8 : BitVec 8) : Statement (.bge imm8) :=
  of_row ⟨"BGE_label", 0xDA00, 0xFF00⟩ (by decide) rfl
    (field (fixed 0b11011010#8) imm8)

theorem blt (imm8 : BitVec 8) : Statement (.blt imm8) :=
  of_row ⟨"BLT_label", 0xDB00, 0xFF00⟩ (by decide) rfl
    (field (fixed 0b11011011#8) imm8)

theorem bgt (imm8 : BitVec 8) : Statement (.bgt imm8) :=
  of_row ⟨"BGT_label", 0xDC00, 0xFF00⟩ (by decide) rfl
    (field (fixed 0b11011100#8) imm8)

theorem ble (imm8 : BitVec 8) : Statement (.ble imm8) :=
  of_row ⟨"BLE_label", 0xDD00, 0xFF00⟩ (by decide) rfl
    (field (fixed 0b11011101#8) imm8)

theorem bal (imm8 : BitVec 8) : Statement (.bal imm8) :=
  of_row ⟨"BAL_label__cond_14", 0xDE00, 0xFF00⟩ (by decide) rfl
    (field (fixed 0b11011110#8) imm8)

theorem swi (comment : BitVec 8) : Statement (.swi comment) :=
  of_row ⟨"SWI__imm8", 0xDF00, 0xFF00⟩ (by decide) rfl
    (field (fixed 0b11011111#8) comment)

theorem b (imm11 : BitVec 11) : Statement (.b imm11) :=
  of_row ⟨"B_label", 0xE000, 0xF800⟩ (by decide) rfl
    (field (fixed 0b11100#5) imm11)

theorem blHi (imm11 : BitVec 11) : Statement (.blHi imm11) :=
  of_row ⟨"BL_label__first_half", 0xF000, 0xF800⟩ (by decide) rfl
    (field (fixed 0b11110#5) imm11)

theorem blLo (imm11 : BitVec 11) : Statement (.blLo imm11) :=
  of_row ⟨"BL_label__second_half", 0xF800, 0xF800⟩ (by decide) rfl
    (field (fixed 0b11111#5) imm11)

theorem reserved (op : Opcode) : Statement (.reserved op) := by
  intro h
  have hm := mask_top op
  simp only [Instr.wellFormed] at h
  generalize op.extractLsb' 8 8 = top at h hm
  have ht : ∀ t : BitVec 8, isReservedByte t = true → ⟨"RESERVED", t ++ 0#8, 0xFF00⟩ ∈ rowsReserved := by decide
  exact ⟨_, List.mem_append_right _ (ht top h), rfl, beq_iff_eq.mpr hm⟩

end Sys2Proof.Laws.RowFits
end

