-- ==== Sys2Proof/Laws/Transfers.lean ====
section
/-! SUPPORT. The multiple transfers: everything a run of word stores or loads does. -/

namespace Sys2Proof.Machine

/-! ## Running addresses -/

@[simp] theorem wordAt_zero (a : Word) : wordAt a 0 = a := by simp [wordAt]

theorem wordAt_succ (a : Word) (k : Nat) : wordAt (a + 4) k = wordAt a (k + 1) := by
  simp only [wordAt, BitVec.add_assoc, Nat.mul_add, Nat.mul_one, BitVec.ofNat_add]
  rw [BitVec.add_comm (BitVec.ofNat 32 (4 * k))]
  rfl

/-- Distinct running addresses lie in distinct aligned words. -/
theorem wordAt_disjoint (a : Word) {j k : Nat} (h : j ≠ k) (hj : j < 2 ^ 30) (hk : k < 2 ^ 30) :
    (wordAt a j).toNat / 4 ≠ (wordAt a k).toNat / 4 := by
  simp only [wordAt, BitVec.toNat_add, BitVec.toNat_ofNat]
  omega

/-! ## Stores -/

/-- The bus events of `storeWords`. -/
def storeEvents : Word → SeqTag → List Word → List BusEvent
  | _, _, [] => []
  | a, tag, v :: vs => .write a .word v tag :: storeEvents (a + 4) .seq vs

@[simp] theorem storeEvents_length : ∀ (a : Word) (tag : SeqTag) (vs : List Word), (storeEvents a tag vs).length = vs.length
  | _, _, [] => rfl
  | a, _, _ :: vs => congrArg (· + 1) (storeEvents_length (a + 4) .seq vs)

/-- The k-th event of `storeWords`: only the first has the tag given. -/
theorem storeEvents_get : ∀ (vs : List Word) (a : Word) (tag : SeqTag) (k : Nat),
    (storeEvents a tag vs)[k]? = (vs[k]?).map fun v => .write (wordAt a k) .word v (if k = 0 then tag else .seq)
  | [], _, _, _ => by simp [storeEvents]
  | v :: vs, a, tag, 0 => by simp [storeEvents]
  | v :: vs, a, tag, k + 1 => by
    rw [storeEvents, List.getElem?_cons_succ, storeEvents_get vs (a + 4) .seq k, List.getElem?_cons_succ,
      wordAt_succ, if_neg (Nat.succ_ne_zero k), ite_self]

/-- What `storeWords` does: no register, status bit, bank or pipeline slot; the words stand at the running addresses,
where they are read-write memory, and every byte outside those is as before. -/
theorem storeWords_spec : ∀ (vs : List Word) (a : Word) (tag : SeqTag) (s : State), s.mem.wf = true →
    vs.length < 2 ^ 30 →
    Frame [] [] (storeEvents a tag vs) s (storeWords a tag vs s) ∧ (storeWords a tag vs s).pipe = s.pipe ∧
      (storeWords a tag vs s).mem.wf = true ∧
      (∀ j (h : j < vs.length), s.kindAt (wordAt a j) = .ram →
        readWord (storeWords a tag vs s).mem (wordAt a j) = vs[j]) ∧
      SameOutsideWords a vs.length s (storeWords a tag vs s)
  | [], a, tag, s, hm, _ => ⟨frame_refl s, rfl, hm, fun _ h => absurd h (Nat.not_lt_zero _), fun _ _ => rfl⟩
  | v :: vs, a, tag, s, hm, hl => by
    have hm' : (s.store a .word v tag).mem.wf = true := busStore_wf a .word v hm
    simp only [List.length_cons] at hl
    obtain ⟨hf, hp, hw, hv, ho⟩ := storeWords_spec vs (a + 4) .seq (s.store a .word v tag) hm' (by omega)
    refine ⟨frame_mono (frame_trans (frame_store s a .word v tag) hf) (by simp) (by simp) rfl, hp, hw, ?_, ?_⟩
    · rintro (_ | j) h hr
      · rw [wordAt_zero] at hr
        rw [wordAt_zero, storeWords]
        refine Eq.trans ?_ (readWord_busWrite_same a v hm)
        apply word_ext
        intro i hi
        rw [readWord_bytes _ _ _ hi, readWord_bytes _ _ _ hi, ho, mem_store, busStore_ram hr]
        · intro j hj _ i' hi'
          have hd := wordAt_disjoint a (show 0 ≠ j + 1 by omega) (by omega) (by omega)
          rw [wordAt_zero] at hd
          rw [wordAt_succ, clearBits10_toNat, clearBits10_toNat]
          omega
      · rw [storeWords, ← wordAt_succ]
        rw [← wordAt_succ] at hr
        exact hv j (by simpa using h) hr
    · intro k hk
      rw [storeWords, ho k, mem_store, read_busStore _ _ _ _ hm, if_neg]
      · rintro ⟨hr, h1, h2⟩
        have h3 : (Width.word.align a).toNat = (clearBits10 (wordAt a 0)).toNat := by rw [wordAt_zero]; rfl
        change k < (Width.word.align a).toNat + 4 at h2
        rw [h3] at h1 h2
        exact hk 0 (Nat.succ_pos _) (by rwa [wordAt_zero]) (k - (clearBits10 (wordAt a 0)).toNat) (by omega) (by omega)
      · intro j hj hr i hi
        rw [wordAt_succ] at hr ⊢
        exact hk (j + 1) (by simpa using hj) hr i hi

/-! ## Loads -/

/-- The bus events of `loadWords`. -/
def loadEvents : Word → SeqTag → Nat → List BusEvent
  | _, _, 0 => []
  | a, tag, n + 1 => .read a .word tag .plain :: loadEvents (a + 4) .seq n

/-- The k-th event of `loadWords`: only the first has the tag given. -/
theorem loadEvents_get : ∀ (n : Nat) (a : Word) (tag : SeqTag) (k : Nat), (loadEvents a tag n)[k]? =
    if k < n then some (.read (wordAt a k) .word (if k = 0 then tag else .seq) .plain) else none
  | 0, _, _, _ => by simp [loadEvents]
  | n + 1, a, tag, 0 => by simp [loadEvents]
  | n + 1, a, tag, k + 1 => by
    rw [loadEvents, List.getElem?_cons_succ, loadEvents_get n (a + 4) .seq k, wordAt_succ,
      if_neg (Nat.succ_ne_zero k), ite_self]
    simp only [Nat.add_lt_add_iff_right]

/-- They are the events that the statements name. -/
theorem loadEvents_eq_wordReads (a : Word) (n : Nat) : loadEvents a .nonseq n = wordReads a n := by
  apply List.ext_getElem?
  intro k
  rw [loadEvents_get, wordReads, List.getElem?_map]
  by_cases h : k < n
  · rw [if_pos h, List.getElem?_range h]
    rfl
  · rw [if_neg h, List.getElem?_eq_none (by simpa using h)]
    rfl

/-- What `loadWords` does: each register of a list without repeats gets the word read at its running address, the bus
having seen the reads before it. -/
theorem loadWords_spec : ∀ (rs : List LowReg) (a : Word) (tag : SeqTag) (s : State), rs.Nodup →
    Frame (rs.map low) [] (loadEvents a tag rs.length) s (loadWords a tag rs s) ∧
      (loadWords a tag rs s).pipe = s.pipe ∧ (loadWords a tag rs s).mem = s.mem ∧
      ∀ j (h : j < rs.length), (loadWords a tag rs s).reg (low rs[j]) =
        (s.after (loadEvents a tag j)).load (wordAt a j) .word .plain
  | [], _, _, s, _ => ⟨frame_refl s, rfl, rfl, fun _ h => absurd h (Nat.not_lt_zero _)⟩
  | r :: rs, a, tag, s, hn => by
    rw [List.nodup_cons] at hn
    obtain ⟨hf, hp, hm, hv⟩ := loadWords_spec rs (a + 4) .seq (s.loadReg (low r) a .word tag .plain) hn.2
    refine ⟨frame_mono (frame_trans (frame_loadReg s (low r) a .word tag .plain) hf) (by simp) (by simp) rfl, hp, hm, ?_⟩
    rintro (_ | j) h
    · rw [wordAt_zero, loadWords]
      change (loadWords (a + 4) .seq rs _).reg (low r) = _
      rw [hf.otherRegs _ (by simpa using hn.1), reg_loadReg, reg_setReg_same, loadEvents, after_nil]
    · rw [loadWords, ← wordAt_succ]
      refine (hv j (by simpa using h)).trans 
        (load_congr (s := s.after (loadEvents a tag (j + 1))) (t := (s.loadReg _ _ _ _ _).after _) rfl rfl ?_ _ _ _)
      simp only [State.accesses, trace_after, trace_loadReg, loadEvents, List.append_assoc, List.singleton_append]

/-! ## Register lists -/

theorem listRegs_nodup (rlist : BitVec 8) : (listRegs rlist).Nodup := List.Nodup.filter _ (by decide)

theorem mem_listRegs (rlist : BitVec 8) (i : LowReg) : i ∈ listRegs rlist ↔ rlist.getLsbD i = true := by
  have h : ∀ i : LowReg, i ∈ ([0, 1, 2, 3, 4, 5, 6, 7] : List LowReg) := by decide
  simp [listRegs, h i]

/-- A listed register stands at its rank. -/
theorem listRegs_rank (rlist : BitVec 8) (i : LowReg) (h : rlist.getLsbD i = true) :
    (listRegs rlist)[rank rlist i]? = some i := by
  revert i; revert rlist; decide +kernel

theorem listRegs_length (rlist : BitVec 8) : (listRegs rlist).length = popcount rlist := by
  revert rlist; decide +kernel

end Sys2Proof.Machine
end

