-- ==== Sys2Proof/Tests/Slice0.lean ====
section
/-! SUPPORT. Tests of the model and witnesses for the statements. Expected results come from the spec: the encodings of
30_encoding.md, the vectors of 95_test_vectors.md (a test's name ends with its vector), and the condition table R140.
A `test_witness_X` shows states and operands that meet the hypotheses of the obligation X, clause by clause. -/

namespace Sys2Proof.Tests

open Sys2Proof Sys2Proof.Machine

/-! ## Well-formedness -/

theorem test_wellFormed_refuses_unreserved :
    (Instr.reserved 0x0000).wellFormed = false ∧ (Instr.reserved 0xB000).wellFormed = false ∧
    (Instr.reserved 0xDE00).wellFormed = false ∧ (Instr.reserved 0xFFFF).wellFormed = false := by decide

theorem test_wellFormed_accepts :
    (Instr.reserved 0xB1FF).wellFormed = true ∧ (Instr.reserved 0xEF00).wellFormed = true ∧
    (Instr.push false 0).wellFormed = true ∧ (Instr.bx 15 1 7).wellFormed = true := by decide

/-! ## Decoding: every constructor, the word written from the bits of its encoding, fields separated -/

theorem test_decode_format1 :
    decodeOp 0b00000_10110_110_001 = .lslImm 1 6 0b10110 ∧
    decodeOp 0b00001_10110_110_001 = .lsrImm 1 6 0b10110 ∧
    decodeOp 0b00010_10110_110_001 = .asrImm 1 6 0b10110 := by
  decide

theorem test_decode_format2 :
    decodeOp 0b0001100_011_110_001 = .addReg 1 6 3 ∧
    decodeOp 0b0001101_011_110_001 = .subReg 1 6 3 ∧
    decodeOp 0b0001110_101_110_001 = .addImm3 1 6 0b101 ∧
    decodeOp 0b0001111_101_110_001 = .subImm3 1 6 0b101 := by
  decide

theorem test_decode_format3 :
    decodeOp 0b00100_001_10010110 = .movImm8 1 0b10010110 ∧
    decodeOp 0b00101_001_10010110 = .cmpImm8 1 0b10010110 ∧
    decodeOp 0b00110_001_10010110 = .addImm8 1 0b10010110 ∧
    decodeOp 0b00111_001_10010110 = .subImm8 1 0b10010110 := by
  decide

theorem test_decode_format4 :
    decodeOp 0b0100000000_110_001 = .andAlu 1 6 ∧
    decodeOp 0b0100000001_110_001 = .eorAlu 1 6 ∧
    decodeOp 0b0100000010_110_001 = .lslAlu 1 6 ∧
    decodeOp 0b0100000011_110_001 = .lsrAlu 1 6 ∧
    decodeOp 0b0100000100_110_001 = .asrAlu 1 6 ∧
    decodeOp 0b0100000101_110_001 = .adcAlu 1 6 ∧
    decodeOp 0b0100000110_110_001 = .sbcAlu 1 6 ∧
    decodeOp 0b0100000111_110_001 = .rorAlu 1 6 ∧
    decodeOp 0b0100001000_110_001 = .tstAlu 1 6 ∧
    decodeOp 0b0100001001_110_001 = .negAlu 1 6 ∧
    decodeOp 0b0100001010_110_001 = .cmpAlu 1 6 ∧
    decodeOp 0b0100001011_110_001 = .cmnAlu 1 6 ∧
    decodeOp 0b0100001100_110_001 = .orrAlu 1 6 ∧
    decodeOp 0b0100001101_110_001 = .mulAlu 1 6 ∧
    decodeOp 0b0100001110_110_001 = .bicAlu 1 6 ∧
    decodeOp 0b0100001111_110_001 = .mvnAlu 1 6 := by
  decide

theorem test_decode_format5 :
    decodeOp 0b01000100_1_0_110_001 = .addHi 9 6 ∧
    decodeOp 0b01000101_1_0_110_001 = .cmpHi 9 6 ∧
    decodeOp 0b01000110_1_0_110_001 = .movHi 9 6 ∧
    decodeOp 0b01000111_1_1_110_101 = .bx 14 0b1 0b101 := by
  decide

theorem test_decode_format6 :
    decodeOp 0b01001_001_10010110 = .ldrPc 1 0b10010110 := by
  decide

theorem test_decode_format7 :
    decodeOp 0b0101000_010_100_001 = .strRo 1 4 2 ∧
    decodeOp 0b0101010_010_100_001 = .strbRo 1 4 2 ∧
    decodeOp 0b0101100_010_100_001 = .ldrRo 1 4 2 ∧
    decodeOp 0b0101110_010_100_001 = .ldrbRo 1 4 2 := by
  decide

theorem test_decode_format8 :
    decodeOp 0b0101001_010_100_001 = .strhRo 1 4 2 ∧
    decodeOp 0b0101011_010_100_001 = .ldsbRo 1 4 2 ∧
    decodeOp 0b0101101_010_100_001 = .ldrhRo 1 4 2 ∧
    decodeOp 0b0101111_010_100_001 = .ldshRo 1 4 2 := by
  decide

theorem test_decode_format9 :
    decodeOp 0b01100_10110_100_001 = .strImm 1 4 0b10110 ∧
    decodeOp 0b01101_10110_100_001 = .ldrImm 1 4 0b10110 ∧
    decodeOp 0b01110_10110_100_001 = .strbImm 1 4 0b10110 ∧
    decodeOp 0b01111_10110_100_001 = .ldrbImm 1 4 0b10110 := by
  decide

theorem test_decode_format10 :
    decodeOp 0b10000_10110_100_001 = .strhImm 1 4 0b10110 ∧
    decodeOp 0b10001_10110_100_001 = .ldrhImm 1 4 0b10110 := by
  decide

theorem test_decode_format11 :
    decodeOp 0b10010_001_10010110 = .strSp 1 0b10010110 ∧
    decodeOp 0b10011_001_10010110 = .ldrSp 1 0b10010110 := by
  decide

theorem test_decode_format12 :
    decodeOp 0b10100_001_10010110 = .addPc 1 0b10010110 ∧
    decodeOp 0b10101_001_10010110 = .addSp 1 0b10010110 := by
  decide

theorem test_decode_format13 :
    decodeOp 0b101100000_1000101 = .incSp 0b1000101 ∧
    decodeOp 0b101100001_1000101 = .decSp 0b1000101 := by
  decide

theorem test_decode_format14 :
    decodeOp 0b1011010_1_10010110 = .push true 0b10010110 ∧
    decodeOp 0b1011110_1_10010110 = .pop true 0b10010110 := by
  decide

theorem test_decode_format15 :
    decodeOp 0b11000_100_10010110 = .stmia 4 0b10010110 ∧
    decodeOp 0b11001_100_10010110 = .ldmia 4 0b10010110 := by
  decide

theorem test_decode_format16 :
    decodeOp 0b11010000_10010110 = .beq 0b10010110 ∧
    decodeOp 0b11010001_10010110 = .bne 0b10010110 ∧
    decodeOp 0b11010010_10010110 = .bcs 0b10010110 ∧
    decodeOp 0b11010011_10010110 = .bcc 0b10010110 ∧
    decodeOp 0b11010100_10010110 = .bmi 0b10010110 ∧
    decodeOp 0b11010101_10010110 = .bpl 0b10010110 ∧
    decodeOp 0b11010110_10010110 = .bvs 0b10010110 ∧
    decodeOp 0b11010111_10010110 = .bvc 0b10010110 ∧
    decodeOp 0b11011000_10010110 = .bhi 0b10010110 ∧
    decodeOp 0b11011001_10010110 = .bls 0b10010110 ∧
    decodeOp 0b11011010_10010110 = .bge 0b10010110 ∧
    decodeOp 0b11011011_10010110 = .blt 0b10010110 ∧
    decodeOp 0b11011100_10010110 = .bgt 0b10010110 ∧
    decodeOp 0b11011101_10010110 = .ble 0b10010110 ∧
    decodeOp 0b11011110_10010110 = .bal 0b10010110 := by
  decide

theorem test_decode_format17 :
    decodeOp 0b11011111_10010110 = .swi 0b10010110 := by
  decide

theorem test_decode_format18 :
    decodeOp 0b11100_10000000101 = .b 0b10000000101 := by
  decide

theorem test_decode_format19 :
    decodeOp 0b11110_10000000101 = .blHi 0b10000000101 ∧
    decodeOp 0b11111_10000000101 = .blLo 0b10000000101 := by
  decide

/-- The first and the last opcode of the reserved values 0xB1, 0xBF, 0xE8, 0xEF (R113, R275). -/
theorem test_decode_reserved :
    decodeOp 0b10110001_00000000 = .reserved 0xB100 ∧ decodeOp 0b10111111_11111111 = .reserved 0xBFFF ∧
    decodeOp 0b11101000_00000000 = .reserved 0xE800 ∧ decodeOp 0b11101111_11111111 = .reserved 0xEFFF := by
  decide

/-- Low byte first (R65); the rest of the list is left; fewer than two bytes are rejected by name. -/
theorem test_decode_bytes :
    decode [0x48, 0x1C, 0x00] = .ok (.addImm3 0 1 1, [0x00]) ∧
    decode [0x04, 0xF8] = .ok (.blLo 4, []) ∧ decode [0x48] = .error .truncated := ⟨rfl, rfl, rfl⟩

/-! ## One step from the start state of the spec's vectors -/

/-- Words put into memory. -/
def poked (m : Memory) (ws : List (Word × Word)) : Memory := ws.foldl (fun m p => busWrite m p.1 .word p.2) m

/-- The words that the vectors of THUMB.6 to THUMB.11 and THUMB.15 read. -/
def dataWords : List (Word × Word) := [(0x2000, 0x44332211), (0x2004, 0x88776655), (0x2008, 0x8899AABB)]

/-- The start state of a vector: an opcode at A, a CPSR, registers and memory words, THUMB started at A. -/
def startWith (a : Word) (op : Opcode) (cpsr : Word) (regs : List (Reg × Word)) (ws : List (Word × Word)) : State :=
  let s := { State.reset with cpsr := cpsr, mem := busWrite (poked [] ws) a .half (op.setWidth 32) }
  startThumb a (regs.foldl (fun s p => s.setReg p.1 p.2) s)

/-- The same in System mode, interrupts enabled, with the flags N Z C V. -/
def start (a : Word) (op : Opcode) (nzcv : BitVec 4) (regs : List (Reg × Word)) (ws : List (Word × Word)) : State :=
  startWith a op (nzcv ++ 0x000003F#28) regs ws

/-- The address of the next instruction and the state (THUMB or ARM) it is fetched in. -/
structure Ends where
  pc : Word
  thumb : Bool

def endsThumb (next : Word) : Ends := ⟨next + 4, true⟩
def endsArm (next : Word) : Ends := ⟨next + 8, false⟩

/-- The step has a next state: the registers listed hold the values listed and the others are unchanged, memory is
changed by the words listed only, and the flags and the end are as given. -/
def runs (s : State) (regs : List (Reg × Word)) (ws : List (Word × Word)) (nzcv : BitVec 4) (e : Ends) : Bool :=
  match step s with
  | .next t =>
    (List.finRange 15).all (fun r => t.reg (r.castLE (by decide)) ==
      ((regs.find? fun p => p.1.val == r.val).map Prod.snd).getD (s.reg (r.castLE (by decide)))) &&
    t.mem == poked s.mem ws && t.cpsr.extractLsb' 28 4 == nzcv && t.reg pcReg == e.pc && psrT t.cpsr == e.thumb
  | .fault _ => false
  | .refused _ => false

/-- What a step gives, where it gives a next state. -/
def stepped (s : State) : State :=
  match step s with
  | .next t => t
  | .fault _ => s
  | .refused _ => s

/-- What an instruction gives, where it gives a next state. -/
def done (i : Instr) (s : State) : State :=
  match exec i s with
  | .next t => t
  | .fault _ => s
  | .refused _ => s

theorem test_lslImm_T1_4 : runs (start 0x1000 0x07C8 0b0000 [(1, 0x3)] [])
    [(0, 0x80000000)] [] 0b1010 (endsThumb 0x1002) = true := by decide

theorem test_lslImm_T1_2 : runs (start 0x1000 0x0008 0b0010 [(1, 0x80000000)] [])
    [(0, 0x80000000)] [] 0b1010 (endsThumb 0x1002) = true := by decide

theorem test_lsrImm_T1_5 : runs (start 0x1000 0x0848 0b0000 [(1, 0x3)] [])
    [(0, 0x1)] [] 0b0010 (endsThumb 0x1002) = true := by decide

theorem test_lsrImm_T1_6 : runs (start 0x1000 0x0808 0b0000 [(1, 0x80000000)] [])
    [(0, 0x0)] [] 0b0110 (endsThumb 0x1002) = true := by decide

theorem test_asrImm_T1_8 : runs (start 0x1000 0x1008 0b0000 [(1, 0x80000000)] [])
    [(0, 0xFFFFFFFF)] [] 0b1010 (endsThumb 0x1002) = true := by decide

theorem test_asrImm_T1_10 : runs (start 0x1000 0x1108 0b0000 [(1, 0xF0000008)] [])
    [(0, 0xFF000000)] [] 0b1010 (endsThumb 0x1002) = true := by decide

theorem test_addReg_T2_2 : runs (start 0x1000 0x1888 0b0000 [(1, 0x7FFFFFFF), (2, 0x7FFFFFFF)] [])
    [(0, 0xFFFFFFFE)] [] 0b1001 (endsThumb 0x1002) = true := by decide

theorem test_addReg_T2_3 : runs (start 0x1000 0x1888 0b0000 [(1, 0x80000000), (2, 0x80000000)] [])
    [(0, 0x0)] [] 0b0111 (endsThumb 0x1002) = true := by decide

theorem test_subReg_T2_5 : runs (start 0x1000 0x1A88 0b0010 [(1, 0x0), (2, 0x1)] [])
    [(0, 0xFFFFFFFF)] [] 0b1000 (endsThumb 0x1002) = true := by decide

theorem test_subReg_T2_6 : runs (start 0x1000 0x1A88 0b0000 [(1, 0x80000000), (2, 0x1)] [])
    [(0, 0x7FFFFFFF)] [] 0b0011 (endsThumb 0x1002) = true := by decide

theorem test_addImm3_T2_7 : runs (start 0x1000 0x1C48 0b0000 [(1, 0x7FFFFFFF)] [])
    [(0, 0x80000000)] [] 0b1001 (endsThumb 0x1002) = true := by decide

theorem test_addImm3_T2_8 : runs (start 0x1000 0x1DC8 0b0000 [(1, 0xFFFFFFF9)] [])
    [(0, 0x0)] [] 0b0110 (endsThumb 0x1002) = true := by decide

theorem test_subImm3_T2_10 : runs (start 0x1000 0x1E48 0b0000 [(1, 0x0)] [])
    [(0, 0xFFFFFFFF)] [] 0b1000 (endsThumb 0x1002) = true := by decide

theorem test_movImm8_T3_1 : runs (start 0x1000 0x2000 0b1011 [(0, 0xDEADBEEF)] [])
    [(0, 0x0)] [] 0b0111 (endsThumb 0x1002) = true := by decide

theorem test_movImm8_T3_2 : runs (start 0x1000 0x20FF 0b1100 [(0, 0x0)] [])
    [(0, 0xFF)] [] 0b0000 (endsThumb 0x1002) = true := by decide

theorem test_cmpImm8_T3_4 : runs (start 0x1000 0x2806 0b0010 [(0, 0x5)] [])
    [(0, 0x5)] [] 0b1000 (endsThumb 0x1002) = true := by decide

theorem test_cmpImm8_T3_5 : runs (start 0x1000 0x2801 0b0000 [(0, 0x80000000)] [])
    [(0, 0x80000000)] [] 0b0011 (endsThumb 0x1002) = true := by decide

theorem test_addImm8_T3_6 : runs (start 0x1000 0x30FF 0b0000 [(0, 0xFFFFFF01)] [])
    [(0, 0x0)] [] 0b0110 (endsThumb 0x1002) = true := by decide

theorem test_addImm8_T3_7 : runs (start 0x1000 0x3001 0b0000 [(0, 0x7FFFFFFF)] [])
    [(0, 0x80000000)] [] 0b1001 (endsThumb 0x1002) = true := by decide

theorem test_subImm8_T3_8 : runs (start 0x1000 0x3801 0b0000 [(0, 0x0)] [])
    [(0, 0xFFFFFFFF)] [] 0b1000 (endsThumb 0x1002) = true := by decide

theorem test_subImm8_T3_9 : runs (start 0x1000 0x3F80 0b0000 [(7, 0x80000000)] [])
    [(7, 0x7FFFFF80)] [] 0b0011 (endsThumb 0x1002) = true := by decide

theorem test_andAlu_T4_1 : runs (start 0x1000 0x4008 0b0011 [(0, 0xF0F0F0F0), (1, 0xFF00FF0)] [])
    [(0, 0xF000F0)] [] 0b0011 (endsThumb 0x1002) = true := by decide

theorem test_eorAlu_T4_2 : runs (start 0x1000 0x4048 0b0000 [(0, 0xAAAAAAAA), (1, 0xAAAAAAAA)] [])
    [(0, 0x0)] [] 0b0100 (endsThumb 0x1002) = true := by decide

theorem test_lslAlu_T4_3 : runs (start 0x1000 0x4088 0b0000 [(0, 0x1), (1, 0x20)] [])
    [(0, 0x0)] [] 0b0110 (endsThumb 0x1002) = true := by decide

theorem test_lslAlu_T4_5 : runs (start 0x1000 0x4088 0b0010 [(0, 0x80000000), (1, 0x100)] [])
    [(0, 0x80000000)] [] 0b1010 (endsThumb 0x1002) = true := by decide

theorem test_lsrAlu_T4_6 : runs (start 0x1000 0x40C8 0b0000 [(0, 0x80000000), (1, 0x20)] [])
    [(0, 0x0)] [] 0b0110 (endsThumb 0x1002) = true := by decide

theorem test_lsrAlu_T4_7 : runs (start 0x1000 0x40C8 0b0000 [(0, 0x80000000), (1, 0x1F)] [])
    [(0, 0x1)] [] 0b0000 (endsThumb 0x1002) = true := by decide

theorem test_asrAlu_T4_8 : runs (start 0x1000 0x4108 0b0000 [(0, 0x80000000), (1, 0xC8)] [])
    [(0, 0xFFFFFFFF)] [] 0b1010 (endsThumb 0x1002) = true := by decide

theorem test_asrAlu_T4_9 : runs (start 0x1000 0x4108 0b0010 [(0, 0x40000000), (1, 0x20)] [])
    [(0, 0x0)] [] 0b0100 (endsThumb 0x1002) = true := by decide

theorem test_adcAlu_T4_10 : runs (start 0x1000 0x4148 0b0010 [(0, 0xFFFFFFFF), (1, 0x0)] [])
    [(0, 0x0)] [] 0b0110 (endsThumb 0x1002) = true := by decide

theorem test_adcAlu_T4_11 : runs (start 0x1000 0x4148 0b0010 [(0, 0x7FFFFFFF), (1, 0x0)] [])
    [(0, 0x80000000)] [] 0b1001 (endsThumb 0x1002) = true := by decide

theorem test_sbcAlu_T4_12 : runs (start 0x1000 0x4188 0b0000 [(0, 0x5), (1, 0x5)] [])
    [(0, 0xFFFFFFFF)] [] 0b1000 (endsThumb 0x1002) = true := by decide

theorem test_sbcAlu_T4_14 : runs (start 0x1000 0x4188 0b0000 [(0, 0x80000000), (1, 0x0)] [])
    [(0, 0x7FFFFFFF)] [] 0b0011 (endsThumb 0x1002) = true := by decide

theorem test_rorAlu_T4_15 : runs (start 0x1000 0x41C8 0b0000 [(0, 0x80000001), (1, 0x20)] [])
    [(0, 0x80000001)] [] 0b1010 (endsThumb 0x1002) = true := by decide

theorem test_rorAlu_T4_17 : runs (start 0x1000 0x41C8 0b0000 [(0, 0x12345678), (1, 0x8)] [])
    [(0, 0x78123456)] [] 0b0000 (endsThumb 0x1002) = true := by decide

theorem test_tstAlu_T4_18 : runs (start 0x1000 0x4208 0b0011 [(0, 0x80000000), (1, 0x80000000)] [])
    [(0, 0x80000000)] [] 0b1011 (endsThumb 0x1002) = true := by decide

theorem test_negAlu_T4_19 : runs (start 0x1000 0x4248 0b0000 [(0, 0x7), (1, 0x0)] [])
    [(0, 0x0)] [] 0b0110 (endsThumb 0x1002) = true := by decide

theorem test_negAlu_T4_20 : runs (start 0x1000 0x4248 0b0000 [(0, 0x7), (1, 0x80000000)] [])
    [(0, 0x80000000)] [] 0b1001 (endsThumb 0x1002) = true := by decide

theorem test_cmpAlu_T4_22 : runs (start 0x1000 0x4288 0b0000 [(0, 0x7FFFFFFF), (1, 0xFFFFFFFF)] [])
    [(0, 0x7FFFFFFF)] [] 0b1001 (endsThumb 0x1002) = true := by decide

theorem test_cmnAlu_T4_23 : runs (start 0x1000 0x42C8 0b0000 [(0, 0x1), (1, 0xFFFFFFFF)] [])
    [(0, 0x1)] [] 0b0110 (endsThumb 0x1002) = true := by decide

theorem test_orrAlu_T4_24 : runs (start 0x1000 0x4308 0b1011 [(0, 0x0), (1, 0x0)] [])
    [(0, 0x0)] [] 0b0111 (endsThumb 0x1002) = true := by decide

theorem test_mulAlu_T4_25 : runs (start 0x1000 0x4348 0b0011 [(0, 0x10000), (1, 0x10000)] [])
    [(0, 0x0)] [] 0b0101 (endsThumb 0x1002) = true := by decide

theorem test_mulAlu_T4_27 : runs (start 0x1000 0x4340 0b0000 [(0, 0xFFFF)] [])
    [(0, 0xFFFE0001)] [] 0b1000 (endsThumb 0x1002) = true := by decide

theorem test_bicAlu_T4_28 : runs (start 0x1000 0x4388 0b0000 [(0, 0xFFFFFFFF), (1, 0x7FFFFFFF)] [])
    [(0, 0x80000000)] [] 0b1000 (endsThumb 0x1002) = true := by decide

theorem test_mvnAlu_T4_29 : runs (start 0x1000 0x43C8 0b0010 [(0, 0x5), (1, 0xFFFFFFFF)] [])
    [(0, 0x0)] [] 0b0110 (endsThumb 0x1002) = true := by decide

theorem test_addHi_T5_1 : runs (start 0x1000 0x4488 0b1111 [(8, 0xFFFFFFFF), (1, 0x2)] [])
    [(8, 0x1)] [] 0b1111 (endsThumb 0x1002) = true := by decide

theorem test_addHi_T5_2 : runs (start 0x1000 0x4487 0b0000 [(0, 0x101)] [])
    [] [] 0b0000 (endsThumb 0x1104) = true := by decide

theorem test_cmpHi_T5_5 : runs (start 0x1000 0x45C8 0b0000 [(8, 0x1), (9, 0x2)] [])
    [(8, 0x1)] [] 0b1000 (endsThumb 0x1002) = true := by decide

theorem test_cmpHi_T5_6 : runs (start 0x1000 0x4587 0b0000 [(0, 0x1004)] [])
    [] [] 0b0110 (endsThumb 0x1002) = true := by decide

theorem test_movHi_T5_9 : runs (start 0x1002 0x4678 0b0000 [] [])
    [(0, 0x1006)] [] 0b0000 (endsThumb 0x1004) = true := by decide

theorem test_movHi_T5_10 : runs (start 0x1000 0x46F7 0b0000 [(14, 0x2001)] [])
    [] [] 0b0000 (endsThumb 0x2000) = true := by decide

theorem test_bx_T5_16 : runs (start 0x1002 0x4778 0b0000 [] [])
    [] [] 0b0000 (endsArm 0x1004) = true := by decide

theorem test_bx_T5_17 : runs (start 0x1000 0x47F7 0b0000 [(14, 0x2001)] [])
    [] [] 0b0000 (endsThumb 0x2000) = true := by decide

theorem test_ldrPc_T6_2 : runs (start 0x1002 0x4801 0b0000 [] ([(0x1008, 0xCAFEBABE)] ++ dataWords))
    [(0, 0xCAFEBABE)] [] 0b0000 (endsThumb 0x1004) = true := by decide

theorem test_ldrPc_T6_3 : runs (start 0x1000 0x48FF 0b0000 [] ([(0x1400, 0x12345678)] ++ dataWords))
    [(0, 0x12345678)] [] 0b0000 (endsThumb 0x1002) = true := by decide

theorem test_strRo_T7_1 : runs (start 0x1000 0x5088 0b0000 [(0, 0xAABBCCDD), (1, 0x3000), (2, 0x4)] dataWords)
    [] [(0x3004, 0xAABBCCDD)] 0b0000 (endsThumb 0x1002) = true := by decide

theorem test_strRo_T7_2 : runs (start 0x1000 0x5088 0b0000 [(0, 0xAABBCCDD), (1, 0x3000), (2, 0x6)] ([(0x3004, 0x0)] ++ dataWords))
    [] [(0x3004, 0xAABBCCDD)] 0b0000 (endsThumb 0x1002) = true := by decide

theorem test_strbRo_T7_3 : runs (start 0x1000 0x5488 0b0000 [(0, 0xAABBCCDD), (1, 0x3000), (2, 0x5)] ([(0x3004, 0x11111111)] ++ dataWords))
    [] [(0x3004, 0x1111DD11)] 0b0000 (endsThumb 0x1002) = true := by decide

theorem test_ldrRo_T7_5 : runs (start 0x1000 0x5888 0b0000 [(1, 0x2000), (2, 0x1)] dataWords)
    [(0, 0x11443322)] [] 0b0000 (endsThumb 0x1002) = true := by decide

theorem test_ldrRo_T7_9 : runs (start 0x1000 0x5888 0b0000 [(1, 0xFFFFFFFC), (2, 0x2008)] dataWords)
    [(0, 0x88776655)] [] 0b0000 (endsThumb 0x1002) = true := by decide

theorem test_ldrbRo_T7_8 : runs (start 0x1000 0x5C88 0b0000 [(1, 0x2000), (2, 0xB)] dataWords)
    [(0, 0x88)] [] 0b0000 (endsThumb 0x1002) = true := by decide

theorem test_strhRo_T8_2 : runs (start 0x1000 0x5288 0b0000 [(0, 0xAABBCCDD), (1, 0x3000), (2, 0x3)] ([(0x3000, 0x11111111)] ++ dataWords))
    [] [(0x3000, 0xCCDD1111)] 0b0000 (endsThumb 0x1002) = true := by decide

theorem test_ldsbRo_T8_3 : runs (start 0x1000 0x5688 0b0000 [(1, 0x2000), (2, 0x8)] dataWords)
    [(0, 0xFFFFFFBB)] [] 0b0000 (endsThumb 0x1002) = true := by decide

theorem test_ldsbRo_T8_4 : runs (start 0x1000 0x5688 0b0000 [(1, 0x2000), (2, 0x0)] dataWords)
    [(0, 0x11)] [] 0b0000 (endsThumb 0x1002) = true := by decide

theorem test_ldrhRo_T8_5 : runs (start 0x1000 0x5A88 0b0000 [(1, 0x2000), (2, 0xA)] dataWords)
    [(0, 0x8899)] [] 0b0000 (endsThumb 0x1002) = true := by decide

theorem test_ldrhRo_T8_6 : runs (start 0x1000 0x5A88 0b0000 [(1, 0x2000), (2, 0x9)] dataWords)
    [(0, 0xBB0000AA)] [] 0b0000 (endsThumb 0x1002) = true := by decide

theorem test_ldshRo_T8_7 : runs (start 0x1000 0x5E88 0b0000 [(1, 0x2000), (2, 0xA)] dataWords)
    [(0, 0xFFFF8899)] [] 0b0000 (endsThumb 0x1002) = true := by decide

theorem test_ldshRo_T8_9 : runs (start 0x1000 0x5E88 0b0000 [(1, 0x2000), (2, 0x9)] dataWords)
    [(0, 0xFFFFFFAA)] [] 0b0000 (endsThumb 0x1002) = true := by decide

theorem test_strImm_T9_2 : runs (start 0x1000 0x67C8 0b0000 [(0, 0x1020304), (1, 0x3000)] dataWords)
    [] [(0x307C, 0x1020304)] 0b0000 (endsThumb 0x1002) = true := by decide

theorem test_ldrImm_T9_4 : runs (start 0x1000 0x6848 0b0000 [(1, 0x2001)] dataWords)
    [(0, 0x55887766)] [] 0b0000 (endsThumb 0x1002) = true := by decide

theorem test_ldrImm_T9_5 : runs (start 0x1000 0x6809 0b0000 [(1, 0x2000)] dataWords)
    [(1, 0x44332211)] [] 0b0000 (endsThumb 0x1002) = true := by decide

theorem test_strbImm_T9_6 : runs (start 0x1000 0x7048 0b0000 [(0, 0x1FF), (1, 0x3000)] ([(0x3000, 0x0)] ++ dataWords))
    [] [(0x3000, 0xFF00)] 0b0000 (endsThumb 0x1002) = true := by decide

theorem test_ldrbImm_T9_7 : runs (start 0x1000 0x7FC8 0b0000 [(1, 0x1FEC)] dataWords)
    [(0, 0x88)] [] 0b0000 (endsThumb 0x1002) = true := by decide

theorem test_strhImm_T10_1 : runs (start 0x1000 0x8048 0b0000 [(0, 0xAABBCCDD), (1, 0x3000)] ([(0x3000, 0x0)] ++ dataWords))
    [] [(0x3000, 0xCCDD0000)] 0b0000 (endsThumb 0x1002) = true := by decide

theorem test_ldrhImm_T10_2 : runs (start 0x1000 0x8FC8 0b0000 [(1, 0x1FCC)] dataWords)
    [(0, 0x8899)] [] 0b0000 (endsThumb 0x1002) = true := by decide

theorem test_ldrhImm_T10_3 : runs (start 0x1000 0x8848 0b0000 [(1, 0x2007)] dataWords)
    [(0, 0xBB0000AA)] [] 0b0000 (endsThumb 0x1002) = true := by decide

theorem test_strSp_T11_1 : runs (start 0x1000 0x9001 0b0000 [(0, 0xDEADBEEF), (13, 0x3000)] dataWords)
    [] [(0x3004, 0xDEADBEEF)] 0b0000 (endsThumb 0x1002) = true := by decide

theorem test_ldrSp_T11_3 : runs (start 0x1000 0x98FF 0b0000 [(13, 0x1C0C)] dataWords)
    [(0, 0x8899AABB)] [] 0b0000 (endsThumb 0x1002) = true := by decide

theorem test_ldrSp_T11_4 : runs (start 0x1000 0x9800 0b0000 [(13, 0x2002)] dataWords)
    [(0, 0x22114433)] [] 0b0000 (endsThumb 0x1002) = true := by decide

theorem test_addPc_T12_2 : runs (start 0x1002 0xA001 0b0000 [] [])
    [(0, 0x1008)] [] 0b0000 (endsThumb 0x1004) = true := by decide

theorem test_addSp_T12_5 : runs (start 0x1000 0xA8FF 0b0000 [(13, 0xFFFFFFFE)] [])
    [(0, 0x3FA)] [] 0b0000 (endsThumb 0x1002) = true := by decide

theorem test_incSp_T13_2 : runs (start 0x1000 0xB07F 0b0000 [(13, 0x3007F00)] [])
    [(13, 0x30080FC)] [] 0b0000 (endsThumb 0x1002) = true := by decide

theorem test_decSp_T13_4 : runs (start 0x1000 0xB0FF 0b0000 [(13, 0x100)] [])
    [(13, 0xFFFFFF04)] [] 0b0000 (endsThumb 0x1002) = true := by decide

theorem test_push_T14_1 : runs (start 0x1000 0xB511 0b0000 [(0, 0x1), (4, 0x2), (14, 0x3), (13, 0x3007F00)] [])
    [(13, 0x3007EF4)] [(0x3007EF4, 0x1), (0x3007EF8, 0x2), (0x3007EFC, 0x3)] 0b0000 (endsThumb 0x1002) = true := by decide

theorem test_push_T14_5 : runs (start 0x1000 0xB401 0b0000 [(0, 0xAABBCCDD), (13, 0x3007F02)] [(0x3007EFC, 0x0)])
    [(13, 0x3007EFE)] [(0x3007EFC, 0xAABBCCDD)] 0b0000 (endsThumb 0x1002) = true := by decide

theorem test_pop_T14_7 : runs (start 0x1000 0xBD10 0b0000 [(13, 0x3007EF8)] [(0x3007EF8, 0x7), (0x3007EFC, 0x8009)])
    [(4, 0x7), (13, 0x3007F00)] [] 0b0000 (endsThumb 0x8008) = true := by decide

theorem test_pop_T14_9 : runs (start 0x1000 0xBC20 0b0000 [(13, 0x3007F01)] [(0x3007F00, 0x11223344)])
    [(5, 0x11223344), (13, 0x3007F05)] [] 0b0000 (endsThumb 0x1002) = true := by decide

theorem test_stmia_T15_2 : runs (start 0x1000 0xC103 0b0000 [(0, 0xA), (1, 0x3000)] [])
    [(1, 0x3008)] [(0x3000, 0xA), (0x3004, 0x3008)] 0b0000 (endsThumb 0x1002) = true := by decide

theorem test_stmia_T15_4 : runs (start 0x1000 0xC003 0b0000 [(0, 0x3000), (1, 0xB)] [])
    [(0, 0x3008)] [(0x3000, 0x3000), (0x3004, 0xB)] 0b0000 (endsThumb 0x1002) = true := by decide

theorem test_ldmia_T15_8 : runs (start 0x1000 0xC906 0b0000 [(1, 0x2000)] [(0x2000, 0x44332211), (0x2004, 0x88776655)])
    [(1, 0x44332211), (2, 0x88776655)] [] 0b0000 (endsThumb 0x1002) = true := by decide

theorem test_ldmia_T15_9 : runs (start 0x1000 0xC903 0b0000 [(1, 0x2000)] [(0x2000, 0x44332211), (0x2004, 0x88776655)])
    [(0, 0x44332211), (1, 0x88776655)] [] 0b0000 (endsThumb 0x1002) = true := by decide

theorem test_beq_T16_1 : runs (start 0x1000 0xD002 0b0100 [] [])
    [] [] 0b0100 (endsThumb 0x1008) = true := by decide

theorem test_beq_T16_2 : runs (start 0x1000 0xD002 0b0000 [] [])
    [] [] 0b0000 (endsThumb 0x1002) = true := by decide

theorem test_bne_T16_3 : runs (start 0x1000 0xD1FE 0b0000 [] [])
    [] [] 0b0000 (endsThumb 0x1000) = true := by decide

theorem test_bal_T16_6 : runs (start 0x1000 0xDE00 0b0000 [] [])
    [] [] 0b0000 (endsThumb 0x1004) = true := by decide

theorem test_b_T18_2 : runs (start 0x1000 0xE3FF 0b0000 [] [])
    [] [] 0b0000 (endsThumb 0x1802) = true := by decide

theorem test_b_T18_6 : runs (start 0x100 0xE400 0b0000 [] [])
    [] [] 0b0000 (endsThumb 0xFFFFF904) = true := by decide

theorem test_blHi_T19_3 : runs (start 0x8000 0xF7FE 0b0000 [(14, 0x0)] [])
    [(14, 0x6004)] [] 0b0000 (endsThumb 0x8002) = true := by decide

theorem test_blHi_T19_5 : runs (start 0x1000 0xF400 0b0000 [(14, 0x0)] [])
    [(14, 0xFFC01004)] [] 0b0000 (endsThumb 0x1002) = true := by decide

theorem test_blLo_T19_4 : runs (start 0x8002 0xFFFE 0b0000 [(14, 0x6004)] [])
    [(14, 0x8005)] [] 0b0000 (endsThumb 0x7000) = true := by decide

theorem test_blLo_T19_7 : runs (start 0x1000 0xF801 0b0000 [(14, 0x3001)] [])
    [(14, 0x1003)] [] 0b0000 (endsThumb 0x3002) = true := by decide

/-! ## The other conditions (R140), a vector of the same form as T16.1 and T16.2 for each -/

/-- A branch +4 taken, then not taken, under the flags given. -/
def branches (op : Opcode) (yes no : BitVec 4) : Bool :=
  runs (start 0x1000 op yes [] []) [] [] yes (endsThumb 0x1008) &&
  runs (start 0x1000 op no [] []) [] [] no (endsThumb 0x1002)

theorem test_bcs : branches 0xD202 0b0010 0b1101 = true := by decide
theorem test_bcc : branches 0xD302 0b1101 0b0010 = true := by decide
theorem test_bmi : branches 0xD402 0b1000 0b0111 = true := by decide
theorem test_bpl : branches 0xD502 0b0111 0b1000 = true := by decide
theorem test_bvs : branches 0xD602 0b0001 0b1110 = true := by decide
theorem test_bvc : branches 0xD702 0b1110 0b0001 = true := by decide
theorem test_bhi : branches 0xD802 0b0010 0b0110 = true := by decide
theorem test_bls : branches 0xD902 0b0110 0b0010 = true := by decide
theorem test_bge : branches 0xDA02 0b1001 0b1000 = true := by decide
theorem test_blt : branches 0xDB02 0b0001 0b0000 = true := by decide
theorem test_bgt : branches 0xDC02 0b1001 0b0100 = true := by decide
theorem test_ble : branches 0xDD02 0b0100 0b1001 = true := by decide

/-! ## Exceptions (part 3 of the vectors) -/

/-- The start state of vector E1. -/
def stateE1 : State :=
  let s := startWith 0x1000 0xDF05 0xA0000030 [(13, 0x03007F00), (14, 0x11111111)]
    [(0x8, 0xE1B0F00E), (0xC, 0xE1A00000), (0x1000, 0x46C00000), (0x1004, 0x46C0)]
  { s with bank := { s.bank with svc := ⟨0x03007FE0, 0x22222222⟩ } }

theorem test_swi_E1 :
    let t := stepped stateE1
    t.cpsr = 0xA0000093 ∧ t.spsr.svc = 0xA0000030 ∧ t.reg 13 = 0x03007FE0 ∧ t.reg 14 = 0x1002 ∧ t.reg 15 = 0x10 ∧
    t.pipe = ⟨#v[0xE1B0F00E, 0xE1A00000, 0x46C0], 0⟩ ∧ t.bank.usr = ⟨0x03007F00, 0x11111111⟩ := by decide

/-- The start state of vector E2: SWI in Supervisor mode. -/
def stateE2 : State :=
  let s := startWith 0x1000 0xDFFF 0x000000B3 [(13, 0x03007FE0), (14, 0x999)] [(0x8, 0xEA000010), (0xC, 0xEA000011)]
  { s with spsr := { s.spsr with svc := 0x6000001F } }

theorem test_swi_E2 :
    let t := stepped stateE2
    t.cpsr = 0x00000093 ∧ t.spsr.svc = 0x000000B3 ∧ t.reg 14 = 0x1002 ∧ t.reg 13 = 0x03007FE0 ∧ t.reg 15 = 0x10 ∧
    t.pipe.opcode = #v[0xEA000010, 0xEA000011, 0] := by decide

/-- The state of vector E3 before its second step, and the same with another CPSR. -/
def stateE3 (cpsr : Word) : State :=
  let s := startWith 0x8000 0x2001 cpsr [(13, 0x03007F00), (14, 0x33333333)]
    [(0x18, 0xEA000042), (0x1C, 0xE1A00000), (0x8000, 0x30010000), (0x8004, 0x3001)]
  stepped { s with bank := { s.bank with irq := ⟨0x03007FA0, 0x44444444⟩ }, irqLine := [false, true] }

theorem test_irq_E3 :
    let t := stepped (stateE3 0x0000003F)
    t.cpsr = 0x00000092 ∧ t.spsr.irq = 0x0000003F ∧ t.reg 13 = 0x03007FA0 ∧ t.reg 14 = 0x8006 ∧ t.reg 15 = 0x20 ∧
    t.pipe = ⟨#v[0xEA000042, 0xE1A00000, 0x3001], 0⟩ ∧ t.reg 0 = 1 ∧ t.bank.usr = ⟨0x03007F00, 0x33333333⟩ ∧
    (stepped (stateE3 0x000000BF)).reg 0 = 2 := by decide

/-- The start state of vector E4: IRQ taken in FIQ mode. -/
def stateE4 : State :=
  let s := startWith 0x2000 0x46C0 0x00000071
    [(8, 0xF8), (9, 0xF9), (10, 0xFA), (11, 0xFB), (12, 0xFC), (13, 0xFD), (14, 0xFE)] []
  { s with irqLine := [true], bank := { s.bank with
      usrHigh := ⟨0xA8, 0xA9, 0xAA, 0xAB, 0xAC⟩, usr := ⟨0xAD, 0xAE⟩, irq := ⟨0x1D, 0x1E⟩ } }

theorem test_irq_E4 :
    let t := stepped stateE4
    t.cpsr = 0x000000D2 ∧ t.spsr.irq = 0x00000071 ∧ t.activeHigh = ⟨0xA8, 0xA9, 0xAA, 0xAB, 0xAC⟩ ∧
    t.activeStack = ⟨0x1D, 0x2004⟩ ∧ t.reg 15 = 0x20 ∧ t.bank.fiqHigh = ⟨0xF8, 0xF9, 0xFA, 0xFB, 0xFC⟩ ∧
    t.bank.fiq = ⟨0xFD, 0xFE⟩ ∧ t.bank.usr = ⟨0xAD, 0xAE⟩ := by decide

/-- Vector E5: the interrupt goes before the SWI, and before a reserved opcode. -/
theorem test_irq_E5 :
    let t := stepped { stateE1 with irqLine := [true] }
    t.cpsr = 0xA0000092 ∧ t.spsr.irq = 0xA0000030 ∧ t.reg 14 = 0x1004 ∧ t.reg 15 = 0x20 ∧
    t.spsr.svc = 0 ∧ t.bank.svc = ⟨0x03007FE0, 0x22222222⟩ ∧
    (stepped { start 0x1000 0xE800 0 [] [] with irqLine := [true] }).reg 14 = 0x1004 := by decide

/-! ## Stops -/

/-- Vectors T14.10, T14.11, T15.12, T15.13, and a reserved opcode (R275). -/
theorem test_stops :
    step (start 0x1000 0xB400 0 [(13, 0x03007F00)] []) = .fault .emptyRegisterList ∧
    step (start 0x1000 0xBC00 0 [(13, 0x03007F00)] []) = .fault .emptyRegisterList ∧
    step (start 0x1000 0xC000 0 [(0, 0x3000)] []) = .fault .emptyRegisterList ∧
    step (start 0x1000 0xCF00 0 [(7, 0x3000)] []) = .fault .emptyRegisterList ∧
    step (start 0x1000 0xE800 0 [] []) = .fault .reservedEncoding := ⟨rfl, rfl, rfl, rfl, rfl⟩

/-! ## Bus events -/

/-- The accesses of vector T14.1's list and of T11.1, where the data access precedes the opcode read. -/
theorem test_events :
    (stepped (start 0x1000 0xB511 0 [(0, 1), (4, 2), (14, 3), (13, 0x03007F00)] [])).trace =
      (start 0x1000 0xB511 0 [(0, 1), (4, 2), (14, 3), (13, 0x03007F00)] []).trace ++
        [.read 0x1004 .half (Config.prefetchAcc .t14) .plain, .write 0x03007EF4 .word 1 .nonseq,
         .write 0x03007EF8 .word 2 .seq, .write 0x03007EFC .word 3 .seq] ∧
    (stepped (start 0x1000 0x9001 0 [(0, 0xDEADBEEF), (13, 0x3000)] [])).trace =
      (start 0x1000 0x9001 0 [(0, 0xDEADBEEF), (13, 0x3000)] []).trace ++
        [.write 0x3004 .word 0xDEADBEEF .nonseq, .read 0x1004 .half (Config.prefetchAcc .t11) .plain] := ⟨rfl, rfl⟩

/-! ## The PPU register block (scenarios 5 and 6) -/

theorem test_ppu_dispstat : (Ppu.reset.writeByte 0 0xFF .dispstat).readByte 0 .dispstat = 0x38 := by decide

theorem test_ppu_refPoint :
    ((((Ppu.reset.writeByte 0 0x00 (.refPoint 0)).writeByte 1 0x00 (.refPoint 0)).writeByte 2 0x00
      (.refPoint 0)).writeByte 3 0x08 (.refPoint 0)).refPoint.get 0 = ⟨0x08000000, 0xF8000000⟩ := by decide

/-! ## How a run begins -/

/-- An opcode placed in the reset state is run by the very next step (log 8): MOV R0, #255. -/
theorem test_withFetchWord :
    (stepped (State.reset.withFetchWord 16 0x20FF)).reg 0 = 0xFF ∧
    (stepped (State.reset.withFetchWord 16 0x20FF)).reg 15 = 6 ∧ step State.reset = .refused .armState :=
  ⟨by decide, by decide, rfl⟩

/-! ## A bus that is not the reference bus (R6, R62) -/

/-- ROM that holds the word 0x44332211 at 0x2000, something that is no memory from 0x3000 on, RAM elsewhere. -/
def romState : State :=
  { start 0x1000 0x6011 0b0010 [(1, 0x80000000), (2, 0x2000), (3, 0x3001), (13, 0x03007F00)] [(0x2000, 0x44332211)] with
    regions := [⟨0x2000, 0x2FFF, .rom⟩, ⟨0x3000, 0x3FFF, .external⟩] }

/-- A store to ROM completes and leaves memory; the word there is read back. -/
theorem test_rom_store :
    (∃ t, step romState = .next t) ∧ (stepped romState).mem = romState.mem ∧
    (done (.ldrImm 1 2 0) romState).reg 1 = 0x44332211 :=
  ⟨⟨_, rfl⟩, by decide, by decide⟩

/-- What the bus has seen: the two fetches of the reset, those of the start, and the opcode read. -/
def seen : List BusAccess :=
  [.read 0 .word, .read 4 .word, .read 0x1000 .half, .read 0x1002 .half, .read 0x1004 .half]

/-- A load that is answered by no memory: rotated by the low address bits, after the opcode read. -/
theorem test_external_load :
    (done (.ldrImm 1 3 0) romState).reg 1 = (Config.busAnswer seen 0x3000 .word).rotateRight 8 := rfl

/-- A branch to where no memory is: the second fetch is answered after the first. -/
theorem test_external_fetch :
    (done (.bx 3 0 0) romState).pipe.opcode.get 1 =
      ((Config.busAnswer (seen ++ [.read 0x3000 .half]) 0x3002 .half).setWidth 16).setWidth 32 := rfl

/-! ## Witnesses -/

/-- An ordinary state in THUMB state: LSL R0, R1, #0 about to run. -/
def plainState : State := start 0x1000 0x0008 0b0010 [(1, 0x80000000), (13, 0x03007F00)] []

/-- The same with the interrupt line active, and with another mode number. -/
def irqState : State := { plainState with irqLine := [true] }
def modeState (m : BitVec 5) : State := plainState.withMode m

theorem test_witness_DecodeEncode :
    (Instr.reserved 0xBFFF).wellFormed = true ∧ (Instr.lslImm 7 7 31).wellFormed = true := ⟨rfl, rfl⟩

theorem test_witness_FormatRanges :
    (0x0048 : Opcode).extractLsb' 6 10 = (0x007F : Opcode).extractLsb' 6 10 := by decide

/-- Both alternatives of the second hypothesis, and the hypotheses of the last clause. -/
theorem test_witness_StepRunsDecoded :
    psrT plainState.cpsr = true ∧ plainState.irqLine.headD false = false ∧
    psrI (stateE3 0x000000BF).cpsr = true ∧ (stateE3 0x000000BF).irqLine.headD false = true ∧
    plainState.pipe.opcode.get plainState.pipe.index = (readHalf plainState.mem (plainState.reg pcReg - 4)).setWidth 32 ∧
    (plainState.reg pcReg).getLsbD 0 = false ∧
    decode [plainState.mem.read (plainState.reg pcReg - 4).toNat,
      plainState.mem.read ((plainState.reg pcReg - 4).toNat + 1)] = .ok (.lslImm 0 1 0, []) :=
  ⟨rfl, rfl, rfl, rfl, rfl, rfl, rfl⟩

theorem test_witness_StepTakesInterrupt :
    psrT irqState.cpsr = true ∧ legalMode (psrM irqState.cpsr) = true ∧ irqState.irqLine.headD false = true ∧
    psrI irqState.cpsr = false := by decide

theorem test_witness_StepRefusesArmState : psrT State.reset.cpsr = false := by decide

/-- The interrupt, an opcode with an effect, a reserved opcode, and an empty list. -/
theorem test_witness_StepFaultsOnlyWhenUnspecified :
    (psrT irqState.cpsr = true ∧ legalMode (psrM irqState.cpsr) = true ∧ irqState.irqTaken = true) ∧
    (plainState.irqTaken = false ∧ (decodeOp plainState.nextOpcode).specified = true) ∧
    (let s := start 0x1000 0xB1FF 0 [] []
     psrT s.cpsr = true ∧ legalMode (psrM s.cpsr) = true ∧ s.irqTaken = false ∧
     (decodeOp s.nextOpcode).specified = false ∧ isReservedByte (s.nextOpcode.extractLsb' 8 8) = true) ∧
    (let s := start 0x1000 0xCF00 0 [] []
     psrT s.cpsr = true ∧ legalMode (psrM s.cpsr) = true ∧ s.irqTaken = false ∧
     (decodeOp s.nextOpcode).specified = false ∧ isReservedByte (s.nextOpcode.extractLsb' 8 8) = false) := by
  decide

theorem inv_plainState : Inv plainState where
  memory := by decide
  mode := by decide
  thumbPc := by decide
  armPc := by decide
  liveSlots := by decide

theorem test_witness_StepKeepsInvariant : ∃ s t, Inv s ∧ step s = .next t := ⟨plainState, _, inv_plainState, rfl⟩

theorem test_witness_HandlerOrder : ∃ t, psrT plainState.cpsr = true ∧ exec (.strSp 0 1) plainState = .next t :=
  ⟨_, rfl, rfl⟩

/-- The table of section 2.1: the clauses of R134 at 0, 1, 31, 32, 33 and 64. -/
theorem test_witness_RegisterShifts :
    shiftReg .ror 0x80000001 0 true = ⟨0x80000001, true⟩ ∧ shiftReg .lsl 0x80000001 1 false = ⟨0x00000002, true⟩ ∧
    shiftReg .lsr 0x80000000 31 false = ⟨1, false⟩ ∧ shiftReg .lsl 1 32 false = ⟨0, true⟩ ∧
    shiftReg .asr 0x40000000 32 true = ⟨0, false⟩ ∧ shiftReg .ror 1 33 false = ⟨0x80000000, true⟩ ∧
    shiftReg .ror 0x80000001 64 false = ⟨0x80000001, true⟩ := by decide

/-- The clauses at amounts 0, 1 and 31. -/
theorem test_witness_ImmediateShifts :
    shiftImm .lsl 0x80000001 0 true = ⟨0x80000001, true⟩ ∧ shiftImm .lsl 3 31 false = ⟨0x80000000, true⟩ ∧
    shiftImm .lsr 0x7FFFFFFF 0 true = ⟨0, false⟩ ∧ shiftImm .asr 0x80000000 0 false = ⟨0xFFFFFFFF, true⟩ ∧
    shiftImm .asr 0xF0000008 4 false = ⟨0xFF000000, true⟩ ∧ shiftImm .ror 1 0 true = ⟨0x80000000, true⟩ := by
  decide

theorem test_witness_CanonicalMemory :
    Memory.wf ((Memory.write [] 5 7).write 9 1) = true ∧ Memory.wf ((Memory.write [] 9 1).write 5 7) = true ∧
    ∀ k, Memory.read ((Memory.write [] 5 7).write 9 1) k = Memory.read ((Memory.write [] 9 1).write 5 7) k :=
  ⟨rfl, rfl, fun _ => rfl⟩

theorem wf_romState : romState.mem.wf = true := by decide

/-- Read-write memory, ROM and no memory, at the edges of the regions and of the address space. -/
theorem kinds_romState :
    romState.kindAt 0x1FFF = .ram ∧ romState.kindAt 0x2000 = .rom ∧ romState.kindAt 0x2FFF = .rom ∧
    romState.kindAt 0x3000 = .external ∧ romState.kindAt 0x3FFF = .external ∧ romState.kindAt 0xFFFFFFFF = .ram := by
  decide

theorem test_witness_StoreLittleEndian :
    romState.mem.wf = true ∧ romState.kindAt 0xFFFFFFFF = .ram ∧ romState.kindAt 0x2FFF ≠ .ram ∧
    romState.kindAt 0x3000 ≠ .ram := ⟨wf_romState, by decide⟩

/-- An even and an odd address; the last address is odd; memory, ROM among it, and no memory. -/
theorem test_witness_LoadHalfWordRules :
    (0x2008 : Word).getLsbD 0 = false ∧ (0x2009 : Word).getLsbD 0 = true ∧ (0xFFFFFFFF : Word).getLsbD 0 = true ∧
    romState.kindAt 0xFFFFFFFF ≠ .external ∧ romState.kindAt 0x2000 ≠ .external ∧ romState.kindAt 0x3FFF = .external := by
  decide

/-- Legal to legal, within one bank, from an illegal mode, and to one. -/
theorem test_witness_SwitchModeKeepsRegisters :
    (legalMode (psrM plainState.cpsr) = true ∧ legalMode 0b10001 = true) ∧ bankOf 0b10000 = bankOf (psrM plainState.cpsr) ∧
    legalMode (psrM (modeState 0).cpsr) = false ∧ legalMode 0b10100 = false := by decide

theorem test_witness_ExceptionEntry :
    legalMode (psrM plainState.cpsr) = true ∧ Mode.abort.bank ≠ .usr := by decide

theorem test_witness_SwiEntersSupervisor :
    legalMode (psrM stateE1.cpsr) = true ∧ legalMode (psrM (modeState 0b11110).cpsr) = false := by decide

theorem test_witness_SwiRoundTrip : ∃ t, psrT stateE1.cpsr = true ∧ legalMode (psrM stateE1.cpsr) = true ∧
    psrM stateE1.cpsr ≠ 0b10011 ∧ (stateE1.reg pcReg).getLsbD 0 = false ∧ exec (.swi 5) stateE1 = .next t :=
  ⟨_, rfl, rfl, by decide, rfl, rfl⟩

theorem test_witness_InterruptRoundTrip : ∃ t, psrT irqState.cpsr = true ∧ legalMode (psrM irqState.cpsr) = true ∧
    psrM irqState.cpsr ≠ 0b10010 ∧ (irqState.reg pcReg).getLsbD 0 = false ∧ irqState.irqTaken = true ∧
    step irqState = .next t := ⟨_, rfl, rfl, by decide, rfl, rfl, rfl⟩

/-- R15 as source and another, R15 as destination and another. -/
theorem test_witness_HighAddMove :
    (plainState.reg pcReg &&& 0xFFFFFFFE = if pcReg = pcReg then plainState.reg pcReg &&& 0xFFFFFFFE else 0) ∧
    (8 : Reg) ≠ pcReg ∧ (15 : Reg) = pcReg := by decide

/-- Operands with bit 0 set and clear. -/
theorem test_witness_BranchExchange :
    ((plainState.setReg 14 0x2001).reg 14).getLsbD 0 = true ∧ ((plainState.setReg 14 0x2002).reg 14).getLsbD 0 = false := by
  decide

theorem test_witness_LoadPcRelative : (plainState.reg pcReg).getLsbD 0 = false := by decide

/-- An address in read-write memory, and one in ROM: R2 + R0 and R2 + 0. -/
theorem test_witness_StoreRegisterOffset :
    plainState.mem.wf = true ∧ plainState.kindAt (plainState.reg 1 + plainState.reg 0) = .ram ∧
    romState.mem.wf = true ∧ romState.kindAt (romState.reg 2 + romState.reg 0) ≠ .ram := by decide

theorem test_witness_StoreImmediateOffset :
    plainState.mem.wf = true ∧ plainState.kindAt (plainState.reg 1 + 4) = .ram ∧
    romState.mem.wf = true ∧ romState.kindAt (romState.reg 2 + 4) ≠ .ram := by decide

/-- The stack in read-write memory, and in no memory. -/
theorem test_witness_StackRelative :
    romState.mem.wf = true ∧ romState.kindAt (romState.reg spReg + 4) = .ram ∧
    (romState.setReg spReg 0x3000).kindAt ((romState.setReg spReg 0x3000).reg spReg + 4) ≠ .ram := by decide

/-- A list with LR only, a list without it, and the positions of a low register and of LR. -/
theorem test_witness_PushStores :
    plainState.mem.wf = true ∧ popcount 0x11 + true.toNat = 3 ∧ popcount 0x00 + true.toNat = 1 ∧ popcount 0x80 ≠ 0 ∧
    (0x11 : BitVec 8).getLsbD (4 : LowReg) = true ∧ rank 0x11 4 = 1 ∧
    plainState.kindAt (wordAt (plainState.reg spReg - 12) 2) = .ram ∧ romState.kindAt (wordAt (0x2004 - 12) 1) = .ram ∧
    romState.kindAt (wordAt (0x2004 - 12) 2) ≠ .ram := by decide

/-- With the PC and without it. -/
theorem test_witness_PopLoads :
    (popcount 0x10 + true.toNat = 2 ∧ plainState.reg spReg = 0x03007F00) ∧ (0x01 : BitVec 8) ≠ 0 ∧
    (0x10 : BitVec 8).getLsbD (4 : LowReg) = true := by decide

/-- A base that is in the list and lowest, in it and not lowest, and not in it. -/
theorem test_witness_StoreMultiple :
    plainState.mem.wf = true ∧ (0x03 : BitVec 8) ≠ 0 ∧ rank 0x03 0 = 0 ∧ rank 0x03 1 = 1 ∧ popcount 0x03 = 2 ∧
    (0x0C : BitVec 8).getLsbD (1 : LowReg) = false ∧ romState.kindAt (wordAt 0x1FFC 0) = .ram ∧
    romState.kindAt (wordAt 0x1FFC 1) ≠ .ram := by decide

/-- A base in the list and one not in it. -/
theorem test_witness_LoadMultiple :
    (0x06 : BitVec 8) ≠ 0 ∧ (0x06 : BitVec 8).getLsbD (1 : LowReg) = true ∧ (0x0C : BitVec 8).getLsbD (1 : LowReg) = false ∧
    popcount 0xFF = 8 ∧ rank 0xFF 7 = 7 := by decide

theorem test_witness_UnspecifiedOpcodesFault :
    ((0xB1FF : Opcode).extractLsb' 8 8).toNat = 0xB1 ∧ ((0xEF00 : Opcode).extractLsb' 8 8).toNat = 0xEF := by decide

/-- The condition passed and not passed (each condition's own flags are in the tests above); an even x[15]. -/
theorem test_witness_ConditionalBranch :
    condPassed plainState.cpsr .cs = true ∧ condPassed plainState.cpsr .eq = false ∧
    (plainState.reg pcReg).getLsbD 0 = false := by decide

theorem test_witness_Branch : (plainState.reg pcReg).getLsbD 0 = false := by decide

/-- The pair at 0x8000 with the lowest and the highest offset. -/
theorem test_witness_BranchLinkPair : ∃ t u, (0x3FFFFE : BitVec 23).getLsbD 0 = false ∧
    (0x400000 : BitVec 23).getLsbD 0 = false ∧ (plainState.reg pcReg).getLsbD 0 = false ∧
    exec (.blHi ((0x400000 : BitVec 23).extractLsb' 12 11)) plainState = .next t ∧
    exec (.blLo ((0x400000 : BitVec 23).extractLsb' 1 11)) t = .next u := ⟨_, _, rfl, rfl, rfl, rfl, rfl⟩

/-- LSL #0, a register shift by 0 (R2 is 0), MUL. -/
theorem test_witness_OnlyListedFlagsChange : ∃ t u v, exec (.lslImm 0 1 0) plainState = .next t ∧
    (exec (.rorAlu 0 2) plainState = .next u ∧ (plainState.reg (low 2)).setWidth 8 = 0#8) ∧
    exec (.mulAlu 0 1) plainState = .next v := ⟨_, _, _, rfl, ⟨rfl, rfl⟩, rfl⟩

/-- An instruction that leaves THUMB state, one that stores, and one from ARM state. -/
theorem test_witness_ControlBitsProtected :
    (∃ t, exec (.bx 0 0 0) plainState = .next t ∧ psrT t.cpsr ≠ psrT plainState.cpsr) ∧
    (∃ t, exec (.strSp 1 0) plainState = .next t ∧ t.mem ≠ plainState.mem) ∧
    ∃ t, exec (.movImm8 0 0) State.reset = .next t ∧ psrT State.reset.cpsr = false :=
  ⟨⟨_, rfl, by decide⟩, ⟨_, rfl, by decide⟩, ⟨_, rfl, rfl⟩⟩

theorem test_witness_ModeHasNoEffect : ∀ c, Instr.addSp 0 1 ≠ .swi c := by
  intro c h
  cases h

/-- A store of THUMB.11, one of another format, and a PUSH. -/
theorem test_witness_StoreNotSeenByNextInstruction :
    (∃ t, exec (.strSp 1 0) plainState = .next t) ∧ formatOf (.strSp 1 0) = some .t11 ∧
    (∃ t, exec (.strhRo 1 1 2) plainState = .next t) ∧ formatOf (.strhRo 1 1 2) = some .t8 ∧
    ∃ t, exec (.push true 0) plainState = .next t := ⟨⟨_, rfl⟩, rfl, ⟨_, rfl⟩, rfl, ⟨_, rfl⟩⟩

end Sys2Proof.Tests
end

section
/-! PROOFS. The scope of a step (00_scope.md): where the block has none. -/

namespace Sys2Proof.Machine

/-- Settles O8: `step` tests cpsr.T before anything else, so neither the interrupt line nor the opcode in the pipeline
matters in ARM state. -/
theorem stepRefusesArmState : Obligations.StepRefusesArmState := by
  intro s hArm
  have hNotThumb : ¬ psrT s.cpsr = true := Bool.eq_false_iff.mp hArm
  exact if_neg hNotThumb

end Sys2Proof.Machine
end

section
/-! PROOFS. What an instruction or an exception entry can do to the state (10_state.md), said once: the status bits it
may write, what it leaves alone, whether it writes memory, and how it ends (40_pipeline_shifter_flags.md R125). -/

namespace Sys2Proof.Machine

/-! ## Even and aligned addresses -/

/-- The number of the T bit of the CPSR (10_state.md R27). -/
abbrev bitT : Nat := 5

theorem bit0_add (a b : Word) : (a + b).getLsbD 0 = (a.getLsbD 0 ^^ b.getLsbD 0) := by
  rw [BitVec.getLsbD_add (by decide), BitVec.carry_zero, Bool.xor_false]

theorem bit0_clearBit0 (a : Word) : (clearBit0 a).getLsbD 0 = false := by
  simp [clearBit0]

theorem bit0_branchTarget {n : Nat} (s : State) (imm : BitVec n) (h : (s.reg pcReg).getLsbD 0 = false) :
    (branchTarget s imm).getLsbD 0 = false := by
  rw [branchTarget, bit0_add, h, branchOffset, BitVec.getLsbD_shiftLeft]
  rfl

theorem aligned_iff (a : Word) : a.extractLsb' 0 2 = 0 ↔ a.toNat % 4 = 0 := by
  simp [BitVec.toNat_eq]

theorem aligned_clearBits10 (a : Word) : (clearBits10 a).extractLsb' 0 2 = 0 := by
  rw [aligned_iff, clearBits10_toNat, Nat.mul_mod_right]

theorem aligned_add_eight {a : Word} (h : a.extractLsb' 0 2 = 0) : (a + 8).extractLsb' 0 2 = 0 := by
  rw [aligned_iff] at h ⊢
  rw [BitVec.toNat_add, show (8 : Word).toNat = 8 from rfl]
  omega

/-! ## The T bit -/

@[simp] theorem psrT_setPsrT (b : Bool) (p : Word) : psrT (setPsrT b p) = b := by
  rw [psrT, setPsrT, bit_setBit _ _ _ (by decide), if_pos rfl]

theorem psrT_of_frame {regs : List Reg} {bits : List Nat} {es : List BusEvent} {s t : State}
    (h : Frame regs bits es s t) (hT : bitT ∉ bits) : psrT t.cpsr = psrT s.cpsr := h.otherBits bitT hT

/-! ## How a step ends -/

/-- From `s` to `t` the pipeline advanced or was refilled (40_pipeline_shifter_flags.md R125), with what the invariant
of a run needs of the target. -/
inductive Ending (s t : State) : Prop
  | advanced (b : State) (sameT : psrT t.cpsr = psrT s.cpsr) (advances : Advances b s t)
  | thumb (target dead : Word) (b : State) (sameT : psrT t.cpsr = psrT s.cpsr)
      (refills : RefillsThumb target dead b t) (even : (s.reg pcReg).getLsbD 0 = false → target.getLsbD 0 = false)
  | arm (target dead : Word) (b : State) (clearT : psrT t.cpsr = false) (refills : RefillsArm target dead b t)
      (aligned : target.extractLsb' 0 2 = 0)

/-- No ending enters THUMB state. -/
theorem Ending.psrT_false {s t : State} (h : Ending s t) (hs : psrT s.cpsr = false) : psrT t.cpsr = false := by
  cases h with
  | advanced _ sameT _ => rw [sameT, hs]
  | thumb _ _ _ sameT _ _ => rw [sameT, hs]
  | arm _ _ _ clearT _ _ => exact clearT

theorem fetchedHalf_high (s : State) (a : Word) : (fetchedHalf s a).extractLsb' 16 16 = 0 := load_half_plain_high s a

/-- The slots that stay live when the index moves on are the prefetched one and one that was live before. -/
theorem Advances.inv {b s t : State} (h : Advances b s t) (hs : Inv s) (hT : psrT s.cpsr = true)
    (sameT : psrT t.cpsr = psrT s.cpsr) (hwf : t.mem.wf = true) (hmode : legalMode (psrM t.cpsr) = true) : Inv t where
  memory := hwf
  mode := hmode
  thumbPc _ := by rw [h.pc, bit0_add, hs.thumbPc hT]; rfl
  armPc hArm := by rw [sameT, hT] at hArm; cases hArm
  liveSlots _ k _ := by
    by_cases hk : k = s.pipe.index + 2
    · rw [hk, h.fetched]
      exact fetchedHalf_high _ _
    · rw [h.kept k hk]
      exact hs.liveSlots hT k hk

/-- Both live slots of a THUMB refill are fetched halfwords. -/
theorem RefillsThumb.inv {target dead : Word} {b t : State} (h : RefillsThumb target dead b t)
    (hT : psrT t.cpsr = true) (even : target.getLsbD 0 = false) (hwf : t.mem.wf = true)
    (hmode : legalMode (psrM t.cpsr) = true) : Inv t where
  memory := hwf
  mode := hmode
  thumbPc _ := by rw [h.pc, bit0_add, even]; rfl
  armPc hArm := by rw [hT] at hArm; cases hArm
  liveSlots _ k hk := by
    rw [h.index] at hk
    obtain rfl | rfl : k = 0 ∨ k = 1 := by revert hk; revert k; decide
    · rw [h.first]
      exact fetchedHalf_high _ _
    · rw [h.second]
      exact fetchedHalf_high _ _

theorem RefillsArm.inv {target dead : Word} {b t : State} (h : RefillsArm target dead b t) (hT : psrT t.cpsr = false)
    (aligned : target.extractLsb' 0 2 = 0) (hwf : t.mem.wf = true)
    (hmode : legalMode (psrM t.cpsr) = true) : Inv t where
  memory := hwf
  mode := hmode
  thumbPc hThumb := by rw [hT] at hThumb; cases hThumb
  armPc _ := by rw [h.pc]; exact aligned_add_eight aligned
  liveSlots hThumb := by rw [hT] at hThumb; cases hThumb

theorem Ending.inv {s t : State} (h : Ending s t) (hs : Inv s) (hT : psrT s.cpsr = true) (hwf : t.mem.wf = true)
    (hmode : legalMode (psrM t.cpsr) = true) : Inv t := by
  cases h with
  | advanced _ sameT advances => exact advances.inv hs hT sameT hwf hmode
  | thumb _ _ _ sameT refills even => exact refills.inv (sameT.trans hT) (even (hs.thumbPc hT)) hwf hmode
  | arm _ _ _ clearT refills aligned => exact refills.inv clearT aligned hwf hmode

/-! ## What an instruction may do -/

/-- The CPSR bits an instruction other than SWI may write: the flags of R28's list, and T for BX (R30). -/
def statusBitsOf : Instr → List Nat
  | .bx _ _ _ => [bitT]
  | i => flagBitsOf i

theorem flagBitsOf_ge (i : Instr) : ∀ k ∈ flagBitsOf i, 28 ≤ k := by
  unfold flagBitsOf
  split <;> decide

/-- A status bit an instruction may write is a flag of its list, or T and the instruction a BX. -/
theorem mem_statusBitsOf {i : Instr} {k : Nat} (h : k ∈ statusBitsOf i) :
    k ∈ flagBitsOf i ∨ k = bitT ∧ ∃ rs h1 d, i = .bx rs h1 d := by
  unfold statusBitsOf at h
  split at h
  · exact .inr ⟨List.mem_singleton.mp h, _, _, _, rfl⟩
  · exact .inl h

/-- The instructions that write memory. -/
def writesMemory : Instr → Bool
  | .strRo _ _ _ | .strbRo _ _ _ | .strhRo _ _ _ | .strImm _ _ _ | .strbImm _ _ _ | .strhImm _ _ _ | .strSp _ _
  | .push _ _ | .stmia _ _ => true
  | _ => false

/-- The rows of the table that `writesMemory` names. -/
theorem mnemonic_of_writesMemory {i : Instr} (h : writesMemory i = true) :
    i.mnemonic ∈ ["STR_Rd___Rb__Ro", "STRB_Rd___Rb__Ro", "STRH_Rd___Rb__Ro", "STR_Rd___Rb___imm5_4",
      "STRB_Rd___Rb___imm5", "STRH_Rd___Rb___imm5_2", "STR_Rd___SP___imm8_4", "PUSH__rlist___LR",
      "STMIA_Rb____rlist"] := by
  unfold writesMemory at h
  split at h
  case h_10 => cases h
  all_goals simp [Instr.mnemonic]

/-- From `s` to `t` the CPSR bits outside `bits`, the banks, the SPSRs and the map of the bus are unchanged, memory is
unchanged unless `writes`, and the step ends as R125 says. -/
structure Effect (bits : List Nat) (writes : Bool) (s t : State) : Prop where
  otherBits : ∀ k, k ∉ bits → t.cpsr.getLsbD k = s.cpsr.getLsbD k
  bank : t.bank = s.bank
  spsr : t.spsr = s.spsr
  regions : t.regions = s.regions
  memory : writes = false → t.mem = s.mem
  canonical : s.mem.wf = true → t.mem.wf = true
  ending : Ending s t

/-! ## The shapes -/

section
variable {f : ThumbFormat} {rd : LowReg} {s t : State}

/-- What a frame says of an instruction that leaves memory alone, whatever its ending. -/
theorem effect_of_frame {regs : List Reg} {bits : List Nat} {es : List BusEvent} (hframe : Frame regs bits es s t)
    (hmem : t.mem = s.mem) (hend : Ending s t) : Effect bits false s t :=
  ⟨hframe.otherBits, hframe.bank, hframe.spsr, hframe.regions, fun _ => hmem, fun hwf => by rwa [hmem], hend⟩

/-- An advance that leaves memory alone. -/
theorem effect_of_advances {regs : List Reg} {bits : List Nat} {es : List BusEvent} {b : State}
    (hframe : Frame regs bits es s t) (hT : bitT ∉ bits) (hadv : Advances b s t) (hmem : t.mem = s.mem) :
    Effect bits false s t :=
  effect_of_frame hframe hmem (.advanced b (psrT_of_frame hframe hT) hadv)

/-- An advance after stores. -/
theorem effect_of_stores {regs : List Reg} {es : List BusEvent} {b : State} (hframe : Frame regs [] es s t)
    (hadv : Advances b s t) (hwf : s.mem.wf = true → t.mem.wf = true) : Effect [] true s t :=
  ⟨hframe.otherBits, hframe.bank, hframe.spsr, hframe.regions, fun h => absurd h (by decide), hwf,
    .advanced b (psrT_of_frame hframe List.not_mem_nil) hadv⟩

theorem effect_of_quiet {regs : List Reg} {bits : List Nat} (h : Quiet f regs bits s t) (hT : bitT ∉ bits)
    (hmem : t.mem = s.mem) : Effect bits false s t :=
  effect_of_advances h.frame hT h.advances hmem

/-- A THUMB refill after an effect that keeps the status, the banks and memory. -/
theorem effect_of_refill {regs : List Reg} {es : List BusEvent} {u : State} {target : Word}
    (hframe : Frame regs [] es s u) (hmem : u.mem = s.mem)
    (even : (s.reg pcReg).getLsbD 0 = false → target.getLsbD 0 = false) : Effect [] false s (u.jumpThumb target) :=
  have hjump := frame_trans hframe (frame_jumpThumb u target)
  effect_of_frame hjump hmem
    (.thumb target _ u (psrT_of_frame hjump List.not_mem_nil) (refillsThumb_jump u target) even)

/-- An ARM refill after an effect that clears T. -/
theorem effect_of_refillArm {regs : List Reg} {es : List BusEvent} {u : State} {target : Word}
    (hframe : Frame regs [bitT] es s u) (hmem : u.mem = s.mem) (hT : psrT u.cpsr = false)
    (aligned : target.extractLsb' 0 2 = 0) : Effect [bitT] false s (u.jumpArm target) :=
  effect_of_frame (frame_trans hframe (frame_jumpArm u target)) hmem
    (.arm target _ u (by rw [cpsr_jumpArm, hT]) (refillsArm_jump u target) aligned)

theorem arithOp_effect {r : Arith} (h : arithOp f rd r s = .next t) : Effect [bitN, bitZ, bitC, bitV] false s t := by
  cases h
  exact effect_of_quiet (quiet_write f _ _ _ _ s (low_ne_pc rd) (putNZCV_others r _)) (by decide) rfl

theorem compareOp_effect {r : Arith} (h : compareOp f r s = .next t) : Effect [bitN, bitZ, bitC, bitV] false s t := by
  cases h
  exact effect_of_quiet (quiet_status f _ _ s (putNZCV_others r _)) (by decide) rfl

theorem shiftOp_effect {r : Shifted} (h : shiftOp f rd r s = .next t) : Effect [bitN, bitZ, bitC] false s t := by
  cases h
  exact effect_of_quiet (quiet_write f _ _ _ _ s (low_ne_pc rd) (putNZC_others _ _ _)) (by decide) rfl

theorem logicOp_effect {r : Word} (h : logicOp f rd r s = .next t) : Effect [bitN, bitZ] false s t := by
  cases h
  exact effect_of_quiet (quiet_write f _ _ _ _ s (low_ne_pc rd) (putNZ_others _ _)) (by decide) rfl

theorem testOp_effect {r : Word} (h : testOp f r s = .next t) : Effect [bitN, bitZ] false s t := by
  cases h
  exact effect_of_quiet (quiet_status f _ _ s (putNZ_others _ _)) (by decide) rfl

theorem moveOp_effect {r : Reg} {v : Word} (hr : r ≠ pcReg) (h : moveOp f r v s = .next t) : Effect [] false s t := by
  cases h
  exact effect_of_quiet (quiet_write f r v s.cpsr [] s hr fun _ _ => rfl) (by decide) rfl

theorem moveHiOp_effect {r : Reg} {v : Word} (h : moveHiOp r v s = .next t) : Effect [] false s t := by
  unfold moveHiOp at h
  split at h
  · cases h
    exact effect_of_refill (frame_prefetch s .t5) rfl fun _ => bit0_clearBit0 v
  · next hr => exact moveOp_effect hr h

theorem branchOp_effect {target : Word} (even : (s.reg pcReg).getLsbD 0 = false → target.getLsbD 0 = false)
    (h : branchOp f target s = .next t) : Effect [] false s t := by
  cases h
  exact effect_of_refill (frame_prefetch s f) rfl even

theorem condBranchOp_effect {c : Cond} {imm8 : BitVec 8} (h : condBranchOp c imm8 s = .next t) :
    Effect [] false s t := by
  unfold condBranchOp at h
  split at h
  · exact branchOp_effect (bit0_branchTarget s imm8) h
  · cases h
    exact effect_of_quiet (quiet_none .t16 s) (by decide) rfl

theorem loadOp_effect {a : Word} {w : Width} {e : Widen} (h : loadOp f rd a w e s = .next t) :
    Effect [] false s t := by
  obtain ⟨_, h', -, hframe, -, hadv⟩ := loadOp_spec f rd a w e s
  cases h'.symm.trans h
  exact effect_of_advances hframe (by decide) hadv (by cases h; rfl)

theorem loadInternalOp_effect {a : Word} {w : Width} {e : Widen} (h : loadInternalOp f rd a w e s = .next t) :
    Effect [] false s t := by
  obtain ⟨_, h', -, hframe, -, hadv⟩ := loadInternalOp_spec f rd a w e s
  cases h'.symm.trans h
  exact effect_of_advances hframe (by decide) hadv (by cases h; rfl)

theorem storeOp_effect {a : Word} {w : Width} {v : Word} (h : storeOp f a w v s = .next t) : Effect [] true s t := by
  cases h
  exact effect_of_stores
    (frame_trans (frame_trans (frame_prefetch s f) (frame_store _ a w v .nonseq)) (frame_advance _))
    (advances_of rfl (prefetch_slot s f) rfl) (busStore_wf a w v)

/-- The advance of an instruction whose effect after the prefetch touches neither the pipeline nor the PC. -/
theorem advances_of_pipe (f : ThumbFormat) {u : State} (hpipe : u.pipe = (s.prefetch f).pipe)
    (hpc : u.reg pcReg = s.reg pcReg) : Advances s s u.advance :=
  advances_of (by rw [hpipe, index_prefetch]) (fun j => by rw [hpipe, prefetch_slot]) hpc

end

/-! ## The instructions of a shape of their own -/

section
variable {s t : State}

theorem execMulAlu_effect {rd rs : LowReg} (h : execMulAlu rd rs s = .next t) :
    Effect [bitN, bitZ, bitC] false s t := by
  cases h
  exact effect_of_advances
    (frame_trans (frame_trans (frame_trans (frame_trans (frame_prefetch s .t4) (frame_setReg _ _ _))
      (frame_setCpsr _ (putNZC_others _ s.cpsr false))) (frame_emit _ _)) (frame_advance _)) (by decide)
    (advances_of_pipe .t4 rfl (reg_setReg_of_ne _ _ (pc_ne_low rd))) rfl

theorem execBx_effect {rs : Reg} {h1 : BitVec 1} {d : BitVec 3} (h : execBx rs h1 d s = .next t) :
    Effect [bitT] false s t := by
  unfold execBx at h
  dsimp only at h
  split at h
  · cases h
    have e := effect_of_refill (frame_prefetch s .t5) rfl fun _ => bit0_clearBit0 (hiOperand s rs)
    exact { e with otherBits := fun k _ => e.otherBits k List.not_mem_nil }
  · cases h
    have hbits (k : Nat) (hk : k ∉ [bitT]) : (setPsrT false s.cpsr).getLsbD k = s.cpsr.getLsbD k := by
      rw [setPsrT, bit_setBit _ _ _ (by decide), if_neg (List.ne_of_not_mem_cons hk)]
    exact effect_of_refillArm (frame_trans (frame_prefetch s .t5) (frame_setCpsr (s.prefetch .t5) hbits)) rfl
      (psrT_setPsrT false s.cpsr) (aligned_clearBits10 _)

theorem execStrSp_effect {rd : LowReg} {imm8 : BitVec 8} (h : execStrSp rd imm8 s = .next t) :
    Effect [] true s t := by
  cases h
  exact effect_of_stores
    (frame_trans (frame_trans (frame_store s _ .word _ .nonseq) (frame_prefetch _ .t11)) (frame_advance _))
    (advances_of rfl (prefetch_slot (s.store _ _ _ _) .t11) rfl) (busStore_wf _ _ _)

theorem execLdrSp_effect {rd : LowReg} {imm8 : BitVec 8} (h : execLdrSp rd imm8 s = .next t) :
    Effect [] false s t := by
  cases h
  have hpc := (frame_loadReg s (low rd) (addrSp s imm8) .word .nonseq .rotate).otherRegs pcReg (by simp)
  refine effect_of_advances (b := s.loadReg (low rd) (addrSp s imm8) .word .nonseq .rotate)
    (frame_trans (frame_trans (frame_loadReg s _ _ .word .nonseq .rotate) (frame_prefetch _ .t11)) (frame_advance _))
    (by decide) (advances_of rfl (fun j => ?_) hpc) rfl
  rw [prefetch_slot, hpc]
  rfl

/-- What a run of stores does in any memory. -/
theorem storeWords_rest : ∀ (vs : List Word) (a : Word) (tag : SeqTag) (s : State),
    Frame [] [] (storeEvents a tag vs) s (storeWords a tag vs s) ∧ (storeWords a tag vs s).pipe = s.pipe ∧
      (s.mem.wf = true → (storeWords a tag vs s).mem.wf = true)
  | [], _, _, s => ⟨frame_refl s, rfl, id⟩
  | v :: vs, a, tag, s => by
    obtain ⟨hframe, hpipe, hwf⟩ := storeWords_rest vs (a + 4) .seq (s.store a .word v tag)
    exact ⟨frame_trans (frame_store s a .word v tag) hframe, hpipe, fun h => hwf (busStore_wf a .word v h)⟩

theorem execPush_effect {lr : Bool} {rlist : BitVec 8} (h : execPush lr rlist s = .next t) : Effect [] true s t := by
  unfold execPush at h
  split at h
  · cases h
  · cases h
    obtain ⟨hframe, hpipe, hwf⟩ := storeWords_rest (pushValues s lr rlist)
      (s.reg spReg - wordsSize (pushValues s lr rlist).length) .nonseq
      ((s.prefetch .t14).setReg spReg (s.reg spReg - wordsSize (pushValues s lr rlist).length))
    exact effect_of_stores
      (frame_trans (frame_trans (frame_trans (frame_prefetch s .t14) (frame_setReg _ _ _)) hframe) (frame_advance _))
      (advances_of_pipe .t14 hpipe ((hframe.otherRegs pcReg List.not_mem_nil).trans (reg_setReg_of_ne _ _ (by decide))))
      hwf

theorem execStmia_effect {rb : LowReg} {rlist : BitVec 8} (h : execStmia rb rlist s = .next t) :
    Effect [] true s t := by
  unfold execStmia at h
  split at h
  · cases h
  · cases h
    obtain ⟨hframe, hpipe, hwf⟩ := storeWords_rest
      (stmiaValues s rb (s.reg (low rb) + wordsSize (listRegs rlist).length) (listRegs rlist)) (s.reg (low rb))
      .nonseq (s.prefetch .t15)
    exact effect_of_stores
      (frame_trans (frame_trans (frame_trans (frame_prefetch s .t15) hframe) (frame_setReg _ _ _)) (frame_advance _))
      (advances_of_pipe .t15 hpipe ((reg_setReg_of_ne _ _ (pc_ne_low rb)).trans
        (hframe.otherRegs pcReg List.not_mem_nil))) hwf

theorem pc_not_mem_low (rs : List LowReg) : pcReg ∉ rs.map low := by simp

theorem execPop_effect {pc : Bool} {rlist : BitVec 8} (h : execPop pc rlist s = .next t) : Effect [] false s t := by
  unfold execPop at h
  split at h
  · cases h
  · obtain ⟨hframe, hpipe, hmem, -⟩ := loadWords_spec (listRegs rlist) (s.reg spReg) .nonseq (s.prefetch .t14)
      (listRegs_nodup rlist)
    have hloaded := frame_trans (frame_prefetch s .t14) hframe
    dsimp only at h
    split at h
    · cases h
      exact effect_of_refill (frame_trans (frame_trans hloaded (frame_emit _ _)) (frame_setReg _ _ _)) hmem
        fun _ => bit0_clearBit0 _
    · cases h
      exact effect_of_advances (frame_trans (frame_trans hloaded (frame_setReg _ _ _)) (frame_advance _)) (by decide)
        (advances_of_pipe .t14 hpipe ((reg_setReg_of_ne _ _ (by decide)).trans
          (hframe.otherRegs pcReg (pc_not_mem_low _)))) hmem

theorem execLdmia_effect {rb : LowReg} {rlist : BitVec 8} (h : execLdmia rb rlist s = .next t) :
    Effect [] false s t := by
  unfold execLdmia at h
  split at h
  · cases h
  · obtain ⟨hframe, hpipe, hmem, -⟩ := loadWords_spec (listRegs rlist) (s.reg (low rb)) .nonseq (s.prefetch .t15)
      (listRegs_nodup rlist)
    have hloaded := frame_trans (frame_prefetch s .t15) hframe
    have hpc := hframe.otherRegs pcReg (pc_not_mem_low _)
    dsimp only at h
    split at h
    · cases h
      exact effect_of_advances (frame_trans hloaded (frame_advance _)) (by decide) (advances_of_pipe .t15 hpipe hpc)
        hmem
    · cases h
      exact effect_of_advances (frame_trans (frame_trans hloaded (frame_setReg _ _ _)) (frame_advance _)) (by decide)
        (advances_of_pipe .t15 hpipe ((reg_setReg_of_ne _ _ (pc_ne_low rb)).trans hpc)) hmem

theorem execBlLo_effect {imm11 : BitVec 11} (h : execBlLo imm11 s = .next t) : Effect [] false s t := by
  cases h
  exact effect_of_refill (frame_trans (frame_prefetch s .t19) (frame_setReg _ _ _)) rfl fun _ => bit0_clearBit0 _

end

/-! ## Taking an exception -/

/-- What the entry to an exception does to the status, the memory and the pipeline (60_exceptions.md R301). -/
structure Entered (mode : Mode) (vector : Word) (s t : State) : Prop where
  cpsr : t.cpsr = setPsrT false (setPsrI true (setPsrM mode.bits s.cpsr))
  regions : t.regions = s.regions
  memory : t.mem = s.mem
  refills : ∃ dead b, RefillsArm vector dead b t

theorem enterException_entered {mode : Mode} {vector link : Word} {s t : State}
    (h : enterException mode vector link s = .next t) : Entered mode vector s t := by
  unfold enterException andThen at h
  split at h
  · next u hswitch =>
    cases h
    obtain ⟨hcpsr, -, -, hmem, -, -, hregions, -⟩ := switchMode_rest hswitch
    obtain ⟨-, -, hcpsr', hregions', hmem', -, -, hrefills, -⟩ := enterHandler_rest mode vector link s.cpsr u
    exact ⟨by rw [hcpsr', hcpsr], hregions'.trans hregions, hmem'.trans hmem, _, _, hrefills⟩
  · cases h
  · cases h

section
variable {mode : Mode} {vector : Word} {s t : State} (h : Entered mode vector s t)
include h

theorem Entered.otherBits {k : Nat} (h5 : 5 < k) (h7 : k ≠ 7) : t.cpsr.getLsbD k = s.cpsr.getLsbD k := by
  rw [h.cpsr, setPsrT, bit_setBit _ _ _ (by decide), if_neg (by omega), setPsrI, bit_setBit _ _ _ (by decide),
    if_neg h7, bit_setPsrM, if_neg (by omega)]

theorem Entered.psrT : psrT t.cpsr = false := by
  rw [h.cpsr, psrT_setPsrT]

theorem Entered.psrM : psrM t.cpsr = mode.bits := by
  rw [h.cpsr, setPsrT, psrM_setBit _ _ (by decide) (by decide), setPsrI, psrM_setBit _ _ (by decide) (by decide),
    psrM_setPsrM]

theorem Entered.inv (aligned : vector.extractLsb' 0 2 = 0) (hwf : s.mem.wf = true) : Inv t := by
  obtain ⟨_, _, hrefills⟩ := h.refills
  exact hrefills.inv h.psrT aligned (by rw [h.memory, hwf]) (by rw [h.psrM, legalMode_bits])

end

/-! ## Everything an instruction can do -/

theorem exec_effect {i : Instr} {s t : State} (hswi : ∀ c, i ≠ .swi c) (h : exec i s = .next t) :
    Effect (statusBitsOf i) (writesMemory i) s t := by
  cases i
  case addReg | subReg | addImm3 | subImm3 | addImm8 | subImm8 | adcAlu | sbcAlu | negAlu => exact arithOp_effect h
  case cmpImm8 | cmpAlu | cmnAlu | cmpHi => exact compareOp_effect h
  case lslImm | lsrImm | asrImm | lslAlu | lsrAlu | asrAlu | rorAlu => exact shiftOp_effect h
  case movImm8 | andAlu | eorAlu | orrAlu | bicAlu | mvnAlu => exact logicOp_effect h
  case tstAlu => exact testOp_effect h
  case mulAlu => exact execMulAlu_effect h
  case addHi | movHi => exact moveHiOp_effect h
  case bx rs h1 d => exact execBx_effect (h1 := h1) (d := d) h
  case ldrPc | ldrRo | ldrbRo | ldsbRo | ldrhRo | ldshRo => exact loadInternalOp_effect h
  case ldrImm | ldrbImm | ldrhImm => exact loadOp_effect h
  case strRo | strbRo | strhRo | strImm | strbImm | strhImm => exact storeOp_effect h
  case strSp => exact execStrSp_effect h
  case ldrSp => exact execLdrSp_effect h
  case addPc | addSp => exact moveOp_effect (low_ne_pc _) h
  case incSp | decSp | blHi => exact moveOp_effect (by decide) h
  case push => exact execPush_effect h
  case pop => exact execPop_effect h
  case stmia => exact execStmia_effect h
  case ldmia => exact execLdmia_effect h
  case beq | bne | bcs | bcc | bmi | bpl | bvs | bvc | bhi | bls | bge | blt | bgt | ble =>
    exact condBranchOp_effect h
  case bal imm8 => exact condBranchOp_effect (c := .al) (imm8 := imm8) h
  case swi c => exact absurd rfl (hswi c)
  case b imm11 => exact branchOp_effect (bit0_branchTarget s imm11) h
  case blLo => exact execBlLo_effect h
  case reserved => cases h

/-- An instruction that completes has its effect, or is an SWI and enters its handler. -/
theorem exec_cases {i : Instr} {s t : State} (h : exec i s = .next t) :
    (∀ c, i ≠ .swi c) ∧ Effect (statusBitsOf i) (writesMemory i) s t ∨
      (∃ c, i = .swi c) ∧ Entered .supervisor vectorSwi s t := by
  by_cases hswi : ∃ c, i = .swi c
  · refine .inr ⟨hswi, ?_⟩
    obtain ⟨c, rfl⟩ := hswi
    have he := enterException_entered (s := s.prefetch .t17) h
    exact ⟨he.cpsr, he.regions, he.memory, he.refills⟩
  · rw [not_exists] at hswi
    exact .inl ⟨hswi, exec_effect hswi h⟩

end Sys2Proof.Machine
end

section
/-! PROOFS. The claims about every instruction and every step (10_state.md R27 to R35), from what an instruction and an
exception entry can do. -/

namespace Sys2Proof.Machine

/-! ## The invariant of a run -/

/-- Below the flags an instruction other than SWI writes at most T, and T only if it is a BX. -/
theorem not_mem_statusBitsOf {i : Instr} {k : Nat} (hk : k < 28) (hT : k = bitT → ∀ rs h1 d, i ≠ .bx rs h1 d) :
    k ∉ statusBitsOf i := by
  intro h
  obtain h | ⟨h, rs, h1, d, hbx⟩ := mem_statusBitsOf h
  · exact absurd (flagBitsOf_ge i k h) (by omega)
  · exact hT h rs h1 d hbx

section
variable {i : Instr} {writes : Bool} {s t : State} (h : Effect (statusBitsOf i) writes s t)
include h

/-- M, F, I and the reserved bits are outside what an instruction other than SWI writes. -/
theorem Effect.control {k : Nat} (hk : k < 28) (hT : k ≠ bitT) : t.cpsr.getLsbD k = s.cpsr.getLsbD k :=
  h.otherBits k (not_mem_statusBitsOf hk fun e => absurd e hT)

theorem Effect.psrM : psrM t.cpsr = psrM s.cpsr :=
  psrM_congr fun j hj => h.control (by omega) (show j ≠ 5 by omega)

theorem Effect.inv (hs : Inv s) (hT : psrT s.cpsr = true) : Inv t :=
  h.ending.inv hs hT (h.canonical hs.memory) (by rw [h.psrM, hs.mode])

end

theorem exec_inv {i : Instr} {s t : State} (hs : Inv s) (hT : psrT s.cpsr = true) (h : exec i s = .next t) : Inv t := by
  obtain ⟨-, he⟩ | ⟨-, he⟩ := exec_cases h
  · exact he.inv hs hT
  · exact he.inv (by decide) hs.memory

theorem takeIrq_inv {s t : State} (hs : Inv s) (h : takeIrq s = .next t) : Inv t :=
  (enterException_entered h).inv (by decide) hs.memory

theorem sampled_inv {s : State} (h : Inv s) : Inv s.sampled := ⟨h.memory, h.mode, h.thumbPc, h.armPc, h.liveSlots⟩

/-- Settles O10: an interrupt ends in ARM state at an aligned vector; an instruction advances, or refills at an even
THUMB or an aligned ARM target, and only the bus writes memory. -/
theorem stepKeepsInvariant : Obligations.StepKeepsInvariant := by
  intro s t hs h
  unfold step at h
  split at h
  · next hT =>
    split at h
    · exact takeIrq_inv (sampled_inv hs) h
    · exact exec_inv (sampled_inv hs) hT h
  · cases h

/-- Settles O11: every field of the reset state is a literal. -/
theorem resetHasInvariant : Obligations.ResetHasInvariant where
  memory := by decide
  mode := by decide
  thumbPc := by decide
  armPc := by decide
  liveSlots := by decide

/-! ## Flags and control bits -/

/-- C after a shift is the shifter's carry. -/
theorem psrC_of_shiftOp {f : ThumbFormat} {rd : LowReg} {r : Shifted} {s t : State} (h : shiftOp f rd r s = .next t) :
    psrC t.cpsr = r.carry := by
  cases h
  exact psrC_putNZC _ _ _

/-- A shift by a register whose low byte is 0 hands on the old carry (R134). -/
theorem shiftReg_zero (ty : ShiftType) (v : Word) (c : Bool) : shiftReg ty v 0 c = ⟨v, c⟩ := if_pos rfl

theorem psrC_of_shiftReg_zero {f : ThumbFormat} {rd rs : LowReg} {ty : ShiftType} {v : Word} {s t : State}
    (hz : (s.reg (low rs)).setWidth 8 = 0#8)
    (h : shiftOp f rd (shiftReg ty v ((s.reg (low rs)).setWidth 8) (psrC s.cpsr)) s = .next t) :
    psrC t.cpsr = psrC s.cpsr := by
  rw [psrC_of_shiftOp h, hz]
  exact congrArg Shifted.carry (shiftReg_zero ty v _)

/-- No instruction writes a flag outside its list; SWI, which has none, keeps all four. -/
theorem exec_otherFlags {i : Instr} {s t : State} (h : exec i s = .next t) {k : Nat} (hk : 28 ≤ k)
    (hn : k ∉ flagBitsOf i) : t.cpsr.getLsbD k = s.cpsr.getLsbD k := by
  obtain ⟨-, he⟩ | ⟨-, he⟩ := exec_cases h
  · refine he.otherBits k fun hmem => ?_
    obtain hmem | ⟨hT, -⟩ := mem_statusBitsOf hmem
    · exact hn hmem
    · exact absurd hT (show k ≠ 5 by omega)
  · exact he.otherBits (by omega) (by omega)

/-- Settles O56, from what each instruction may write and the carry of a shift by 0. -/
theorem onlyListedFlagsChange : Obligations.OnlyListedFlagsChange := by
  intro i s t h
  refine ⟨fun k hk hn => exec_otherFlags h hk hn, ?_, ?_, ?_⟩
  · rintro rd rs rfl
    exact psrC_of_shiftOp h
  · rintro rd rs (rfl | rfl | rfl | rfl) hz
    · exact psrC_of_shiftReg_zero (ty := .lsl) hz h
    · exact psrC_of_shiftReg_zero (ty := .lsr) hz h
    · exact psrC_of_shiftReg_zero (ty := .asr) hz h
    · exact psrC_of_shiftReg_zero (ty := .ror) hz h
  · rintro rd rs rfl
    cases h
    exact psrC_putNZC _ _ _

/-- Settles O57, from what each instruction may write and how it ends; SWI clears T and writes no memory. -/
theorem controlBitsProtected : Obligations.ControlBitsProtected := by
  intro i s t h
  obtain ⟨hswi, he⟩ | ⟨hswi, he⟩ := exec_cases h
  · refine ⟨fun k h8 hk => he.control hk (show k ≠ 5 by omega), he.control (by decide) (by decide),
      he.ending.psrT_false, fun hT => ?_, fun _ => ⟨he.psrM, he.control (by decide) (by decide), he.bank, he.spsr⟩,
      he.regions, fun hm => ?_⟩
    · refine .inl (by_contra fun hbx => hT (he.otherBits bitT (not_mem_statusBitsOf (by decide) fun _ => ?_)))
      exact fun rs h1 d e => hbx ⟨rs, h1, d, e⟩
    · exact mnemonic_of_writesMemory (Bool.eq_true_of_not_eq_false fun hw => hm (he.memory hw))
  · refine ⟨fun k _ _ => he.otherBits (by omega) (by omega), he.otherBits (by decide) (by decide), fun _ => he.psrT,
      fun _ => .inr hswi, fun hn => ?_, he.regions, fun hm => absurd he.memory hm⟩
    obtain ⟨c, hc⟩ := hswi
    exact absurd hc (hn c)

end Sys2Proof.Machine
end

section
/-! PROOFS. The mode switch (10_state.md R25): every architectural register of every bank keeps its value. -/

namespace Sys2Proof.Machine

/-! ## The registers of a bank, by the groups that move -/

/-- R13 and R14 of a bank, wherever they stand (10_state.md R24). -/
def State.bankedStack (s : State) (b : Bank) : StackSlots :=
  if bankOf (psrM s.cpsr) = some b then s.activeStack else s.bank.stack b

/-- R8 to R12 of a bank, wherever they stand: FIQ has its own, the others share theirs. -/
def State.bankedHigh (s : State) (b : Bank) : HighSlots :=
  if (bankOf (psrM s.cpsr) = some .fiq ↔ b = .fiq) then s.activeHigh
  else if b = .fiq then s.bank.fiqHigh else s.bank.usrHigh

/-- The register of a group of R8 to R12. -/
def HighSlots.get (h : HighSlots) (i : Reg) : Word :=
  if i = 8 then h.r8 else if i = 9 then h.r9 else if i = 10 then h.r10 else if i = 11 then h.r11 else h.r12

theorem activeHigh_get (s : State) {i : Reg} (h : 8 ≤ i ∧ i ≤ 12) : s.activeHigh.get i = s.reg i := by
  obtain rfl | rfl | rfl | rfl | rfl : i = 8 ∨ i = 9 ∨ i = 10 ∨ i = 11 ∨ i = 12 := by revert h; revert i; decide
  all_goals rfl

theorem bankedReg_low (s : State) (b : Bank) {i : Reg} (h : i < 8 ∨ i = 15) : s.bankedReg b i = s.reg i := by
  unfold State.bankedReg
  rw [if_neg (by revert h; revert i; decide), if_neg (by revert h; revert i; decide)]

theorem bankedReg_high (s : State) (b : Bank) {i : Reg} (h : 8 ≤ i ∧ i ≤ 12) :
    s.bankedReg b i = (s.bankedHigh b).get i := by
  unfold State.bankedReg State.bankedHigh
  rw [if_neg (by revert h; revert i; decide), if_pos h]
  split
  · exact (activeHigh_get s h).symm
  · rfl

theorem bankedReg_sp (s : State) (b : Bank) : s.bankedReg b 13 = (s.bankedStack b).r13 := by
  unfold State.bankedReg State.bankedStack
  rw [if_pos (.inl rfl), if_pos rfl]
  split <;> rfl

theorem bankedReg_lr (s : State) (b : Bank) : s.bankedReg b 14 = (s.bankedStack b).r14 := by
  unfold State.bankedReg State.bankedStack
  rw [if_pos (.inr rfl), if_neg (show ¬ (14 : Reg) = 13 by decide)]
  split <;> rfl

/-- The architectural registers of a bank are R0 to R7, R15 and its two groups. -/
theorem bankedReg_congr {s t : State} {b : Bank} (hlow : ∀ i : Reg, i < 8 ∨ i = 15 → t.reg i = s.reg i)
    (hstack : t.bankedStack b = s.bankedStack b) (hhigh : t.bankedHigh b = s.bankedHigh b) (i : Reg) :
    t.bankedReg b i = s.bankedReg b i := by
  obtain h | h | rfl | rfl : (i < 8 ∨ i = 15) ∨ (8 ≤ i ∧ i ≤ 12) ∨ i = 13 ∨ i = 14 := by revert i; decide
  · rw [bankedReg_low t b h, bankedReg_low s b h, hlow i h]
  · rw [bankedReg_high t b h, bankedReg_high s b h, hhigh]
  · rw [bankedReg_sp, bankedReg_sp, hstack]
  · rw [bankedReg_lr, bankedReg_lr, hstack]

/-! ## A switch from one bank to another -/

@[simp] theorem activeStack_setCpsr (s : State) (p : Word) : (s.setCpsr p).activeStack = s.activeStack := rfl
@[simp] theorem activeHigh_setCpsr (s : State) (p : Word) : (s.setCpsr p).activeHigh = s.activeHigh := rfl
@[simp] theorem activeHigh_saveBank (s : State) (bo bn : Bank) : (s.saveBank bo bn).activeHigh = s.activeHigh := rfl

theorem putStack_activeStack (s : State) (v : StackSlots) : (s.putStack v).activeStack = v := by
  simp [State.activeStack, reg_putStack]

theorem putStack_activeHigh (s : State) (v : StackSlots) : (s.putStack v).activeHigh = s.activeHigh := by
  simp [State.activeHigh, reg_putStack]

theorem putHigh_activeStack (s : State) (v : HighSlots) : (s.putHigh v).activeStack = s.activeStack := by
  simp [State.activeStack, reg_putHigh]

theorem putHigh_activeHigh (s : State) (v : HighSlots) : (s.putHigh v).activeHigh = v := by
  simp [State.activeHigh, reg_putHigh]

theorem restoreBank_activeStack (s : State) (bo bn : Bank) :
    (s.restoreBank bo bn).activeStack = s.bank.stack bn := by
  unfold State.restoreBank
  dsimp only
  split
  · rw [putHigh_activeStack, putStack_activeStack]
  · split
    · rw [putHigh_activeStack, putStack_activeStack]
    · exact putStack_activeStack _ _

theorem restoreBank_activeHigh (s : State) (bo bn : Bank) :
    (s.restoreBank bo bn).activeHigh =
      if bn = .fiq then s.bank.fiqHigh else if bo = .fiq then s.bank.usrHigh else s.activeHigh := by
  unfold State.restoreBank
  dsimp only
  split
  · exact putHigh_activeHigh _ _
  · split
    · exact putHigh_activeHigh _ _
    · exact putStack_activeHigh _ _

/-- The state of a switch from bank `bo` to a mode of another bank `bn`. -/
def State.switched (s : State) (new : BitVec 5) (bo bn : Bank) : State :=
  ((s.setCpsr (setPsrM new s.cpsr)).saveBank bo bn).restoreBank bo bn

section
variable {s : State} {new : BitVec 5} {bo bn : Bank} (ho : bankOf (psrM s.cpsr) = some bo) (hn : bankOf new = some bn)
include hn

theorem bankOf_switched : bankOf (psrM (s.switched new bo bn).cpsr) = some bn := by
  rw [State.switched, (restoreBank_rest _ bo bn).2.1]
  exact (congrArg bankOf (psrM_setPsrM new s.cpsr)).trans hn

include ho

/-- The old bank's R13 and R14 go to its slots, the new bank's become active, and the other slots stay. -/
theorem switched_bankedStack (hne : bo ≠ bn) (b : Bank) : (s.switched new bo bn).bankedStack b = s.bankedStack b := by
  unfold State.bankedStack
  rw [bankOf_switched hn, ho, State.switched, restoreBank_activeStack, (restoreBank_rest _ bo bn).1, saveBank_stack,
    saveBank_stack]
  by_cases hb : b = bo
  · subst hb
    rw [if_neg (by simpa using hne.symm), if_pos rfl, if_pos rfl]
    rfl
  · rw [if_neg (show ¬ some bo = some b by simpa using Ne.symm hb), if_neg hb, if_neg hne.symm]
    split
    · next h => rw [Option.some.inj h]; rfl
    · rfl

/-- R8 to R12 move only when FIQ is left or entered. -/
theorem switched_bankedHigh (hne : bo ≠ bn) (b : Bank) : (s.switched new bo bn).bankedHigh b = s.bankedHigh b := by
  unfold State.bankedHigh
  rw [bankOf_switched hn, ho, State.switched, restoreBank_activeHigh, (restoreBank_rest _ bo bn).1,
    saveBank_fiqHigh, saveBank_usrHigh]
  by_cases hbn : bn = .fiq
  · have hbo : bo ≠ .fiq := fun h => hne (h.trans hbn.symm)
    by_cases hb : b = .fiq <;> simp [hbn, hbo, hb]
  · by_cases hbo : bo = .fiq
    · by_cases hb : b = .fiq <;> simp [hbn, hbo, hb]
    · by_cases hb : b = .fiq <;> simp [hbn, hbo, hb]

end

/-- Within one bank no register moves. -/
theorem bankedReg_setCpsr {s : State} {p : Word} (h : bankOf (psrM p) = bankOf (psrM s.cpsr)) (b : Bank) (i : Reg) :
    (s.setCpsr p).bankedReg b i = s.bankedReg b i := by
  unfold State.bankedReg
  rw [cpsr_setCpsr, h]
  rfl

/-! ## Every mode switch -/

theorem switchMode_bankedReg {s t : State} {new : BitVec 5} {bo bn : Bank} (ho : bankOf (psrM s.cpsr) = some bo)
    (hn : bankOf new = some bn) (h : switchMode new s = .next t) (b : Bank) (i : Reg) :
    t.bankedReg b i = s.bankedReg b i := by
  obtain ⟨-, -, -, -, -, -, -, hlow⟩ := switchMode_rest h
  rw [switchMode_next new s ho hn] at h
  split at h
  · next hb =>
    cases h
    exact bankedReg_setCpsr (by rw [psrM_setPsrM, hn, ho, hb]) b i
  · next hne =>
    cases h
    exact bankedReg_congr hlow (switched_bankedStack ho hn hne b) (switched_bankedHigh ho hn hne b) i

/-- Settles O23: the registers by `switchMode_bankedReg`, the other fields by `switchMode_rest`. -/
theorem switchModeKeepsRegisters : Obligations.SwitchModeKeepsRegisters := by
  intro s new
  refine ⟨fun hold hnew => ?_, switchMode_illegal new s⟩
  rw [← bankOf_isSome, Option.isSome_iff_exists] at hold hnew
  obtain ⟨bo, ho⟩ := hold
  obtain ⟨bn, hn⟩ := hnew
  have hswitch := switchMode_next new s ho hn
  obtain ⟨hcpsr, hspsr, hpipe, hmem, hirq, htrace, hregions, hlow⟩ := switchMode_rest hswitch
  refine ⟨_, hswitch, ?_, fun k hk => ?_, switchMode_bankedReg ho hn hswitch, hlow, fun hbank => ?_, hspsr, hpipe,
    hregions, hmem, hirq, htrace⟩
  · rw [hcpsr, psrM_setPsrM]
  · rw [hcpsr, bit_setPsrM, if_neg (by omega)]
  · rw [ho, hn] at hbank
    rw [if_pos (Option.some.inj hbank).symm]
    exact ⟨rfl, rfl⟩

end Sys2Proof.Machine
end

section
/-! PROOFS. Memory and the bus (20_memory.md): the canonical form determines a memory, what a store leaves there, and
what a read gives, its widening (R66 to R70) apart from the bytes the bus answers. -/

namespace Sys2Proof.Machine

/-! ## The canonical form -/

theorem read_cons_same (k : Nat) (v : Byte) (m : Memory) : Memory.read ((k, v) :: m) k = v := if_pos rfl

theorem read_cons_of_ne {k a : Nat} (v : Byte) (m : Memory) (h : k ≠ a) : Memory.read ((k, v) :: m) a = m.read a :=
  if_neg h

section
variable {lo k : Nat} {v : Byte} {m : Memory} (hm : Memory.wfFrom lo ((k, v) :: m) = true)
include hm

theorem read_head_ne : Memory.read ((k, v) :: m) k ≠ Config.unlistedByte := by
  obtain ⟨-, -, hv, -⟩ := (wfFrom_cons lo k v m).1 hm
  rwa [read_cons_same]

/-- No byte below the first entry differs from an unlisted one. -/
theorem head_le_of_read_ne {a : Nat} (ha : Memory.read ((k, v) :: m) a ≠ Config.unlistedByte) : k ≤ a := by
  obtain ⟨-, hk⟩ := (wfFrom_cons lo k v m).1 hm
  exact le_of_not_gt fun hlt => ha (read_of_lt hlt ((wfFrom_cons k k v m).2 ⟨le_rfl, hk⟩))

end

/-- Two canonical memories that read alike have the same first entry, and their rests read alike. -/
theorem eq_of_wfFrom_of_read : ∀ {lo lo' : Nat} {m m' : Memory}, m.wfFrom lo = true → m'.wfFrom lo' = true →
    (∀ a, Memory.read m a = Memory.read m' a) → m = m'
  | _, _, [], [], _, _, _ => rfl
  | _, _, [], (k, _) :: _, _, hm', hread => absurd (hread k).symm (read_head_ne hm')
  | _, _, (k, _) :: _, [], hm, _, hread => absurd (hread k) (read_head_ne hm)
  | lo, lo', (k, v) :: m, (k', v') :: m', hm, hm', hread => by
    have hle : k ≤ k' := head_le_of_read_ne hm (by rw [hread]; exact read_head_ne hm')
    have hge : k' ≤ k := head_le_of_read_ne hm' (by rw [← hread]; exact read_head_ne hm)
    obtain rfl := le_antisymm hle hge
    obtain ⟨-, -, -, htail⟩ := (wfFrom_cons lo k v m).1 hm
    obtain ⟨-, -, -, htail'⟩ := (wfFrom_cons lo' k v' m').1 hm'
    have hhead : v = v' := by rw [← read_cons_same k v m, hread, read_cons_same]
    have hrest (a : Nat) : Memory.read m a = Memory.read m' a := by
      by_cases ha : k = a
      · rw [read_of_lt (by omega) htail, read_of_lt (by omega) htail']
      · rw [← read_cons_of_ne v m ha, hread, read_cons_of_ne v' m' ha]
    rw [hhead, eq_of_wfFrom_of_read htail htail' hrest]

/-- Settles O19: the first entries of the two lists stand at one address, and by induction the rests are equal. -/
theorem canonicalMemory : Obligations.CanonicalMemory := fun _ _ hm hm' hread => eq_of_wfFrom_of_read hm hm' hread

/-! ## Stores -/

/-- Settles O20, from what a bus write does to each byte (`store_stored`) and that no access wraps (`align_bound`). -/
theorem storeLittleEndian : Obligations.StoreLittleEndian := fun s a v w tag hm =>
  ⟨store_stored s a w v tag hm, fun hkind => busStore_other hkind w v, rfl, busStore_wf a w v hm,
    trace_store s a w v tag, align_bound w a⟩

/-! ## Reads of a byte (R66) -/

/-- Settles O21: the tag alone selects the extension. -/
theorem loadByteRule : Obligations.LoadByteRule := fun _ _ => ⟨rfl, rfl, rfl⟩

/-! ## Rotation by bytes -/

/-- A rotation of a word right by n moves bit (j + n) mod 32 to bit j. -/
theorem bit_rotateRight (w : Word) {n j : Nat} (hn : n < 32) (hj : j < 32) :
    (w.rotateRight n).getLsbD j = w.getLsbD ((j + n) % 32) := by
  rw [BitVec.getLsbD_rotateRight, Nat.mod_eq_of_lt hn, cond_eq_ite]
  by_cases h : j < 32 - n
  · rw [decide_eq_true h, if_pos rfl, Nat.mod_eq_of_lt (by omega), Nat.add_comm]
  · rw [decide_eq_false h, if_neg (by decide), decide_eq_true hj, Bool.true_and,
      show (j + n) % 32 = j - (32 - n) by omega]

/-- A rotation right by r bytes moves byte (k + r) mod 4 to byte k. -/
theorem byte_rotateRight (w : Word) {k r : Nat} (hk : k < 4) (hr : r < 4) :
    (w.rotateRight (8 * r)).extractLsb' (8 * k) 8 = w.extractLsb' (8 * ((k + r) % 4)) 8 := by
  apply BitVec.eq_of_getLsbD_eq
  intro i hi
  rw [BitVec.getLsbD_extractLsb', BitVec.getLsbD_extractLsb', bit_rotateRight w (by omega) (by omega),
    show (8 * k + i + 8 * r) % 32 = 8 * ((k + r) % 4) + i by omega]

/-- A halfword has no byte above its two. -/
theorem byte_half_high (h : BitVec 16) {n : Nat} (hn : 16 ≤ n) : h.extractLsb' n 8 = 0 := by
  apply BitVec.eq_of_getLsbD_eq
  intro i hi
  rw [BitVec.getLsbD_extractLsb', BitVec.getLsbD_of_ge h _ (by omega), Bool.and_false]
  exact BitVec.getLsbD_zero.symm

/-- A halfword rotated right by one byte (R67), byte by byte. -/
theorem half_rotateRight (h : BitVec 16) :
    (h.setWidth 32 : Word).rotateRight 8 = h.extractLsb' 0 8 ++ 0#16 ++ h.extractLsb' 8 8 := by
  apply word_ext
  intro k hk
  refine (byte_rotateRight _ hk (show 1 < 4 by decide)).trans ?_
  rw [BitVec.extractLsb'_setWidth_of_le (by omega)]
  obtain rfl | hmiddle | rfl : k = 0 ∨ (1 ≤ k ∧ k ≤ 2) ∨ k = 3 := by omega
  · exact BitVec.extractLsb'_append_eq_right.symm
  · rw [BitVec.extractLsb'_append_eq_of_le (by omega), BitVec.extractLsb'_append_eq_of_add_le (by omega),
      BitVec.extractLsb'_zero]
    exact byte_half_high h (by omega)
  · rw [BitVec.append_assoc]
    exact BitVec.extractLsb'_append_eq_left.symm

/-! ## Reads of a halfword or word by their tag (R67 to R70) -/

theorem loadHalf_even {s : State} {a : Word} (h : a.getLsbD 0 = false) (e : Widen) :
    s.load a .half e = if e = .signed then (s.busHalf a).signExtend 32 else (s.busHalf a).setWidth 32 := by
  have heven : ¬ a.getLsbD 0 = true := Bool.eq_false_iff.mp h
  cases e with
  | plain => rfl
  | signed => exact if_neg heven
  | rotate => exact if_neg heven

theorem loadHalf_odd_rotate {s : State} {a : Word} (h : a.getLsbD 0 = true) :
    s.load a .half .rotate = (s.busHalf a).extractLsb' 0 8 ++ 0#16 ++ (s.busHalf a).extractLsb' 8 8 :=
  (if_pos h).trans (half_rotateRight _)

theorem loadHalf_odd_signed {s : State} {a : Word} (h : a.getLsbD 0 = true) :
    s.load a .half .signed = (s.busByte a).signExtend 32 := if_pos h

theorem loadWord_rotate_byte (s : State) (a : Word) {k : Nat} (hk : k < 4) :
    (s.load a .word .rotate).extractLsb' (8 * k) 8 = (s.busWord a).extractLsb' (8 * ((k + a.toNat) % 4)) 8 := by
  have hoffset : (a.extractLsb' 0 2).toNat = a.toNat % 4 := by simp
  change ((s.busWord a).rotateRight (8 * (a.extractLsb' 0 2).toNat)).extractLsb' (8 * k) 8 = _
  rw [hoffset, byte_rotateRight _ hk (by omega), Nat.add_mod_mod]

/-! ## The bytes that memory answers -/

/-- For a word this is `readWord_bytes`. -/
theorem readHalf_bytes (m : Memory) (a : Word) {k : Nat} (hk : k < 2) :
    (readHalf m a).extractLsb' (8 * k) 8 = m.read ((clearBit0 a).toNat + k) := by
  obtain rfl | rfl : k = 0 ∨ k = 1 := by omega
  · exact BitVec.extractLsb'_append_eq_right
  · exact BitVec.extractLsb'_append_eq_left

/-- Settles O22: the reads by width, parity and tag; in memory the bytes of the aligned unit, elsewhere the free
answer. -/
theorem loadHalfWordRules : Obligations.LoadHalfWordRules := by
  intro s a
  refine ⟨loadHalf_even, fun hodd => ⟨loadHalf_odd_rotate hodd, loadHalf_odd_signed hodd, rfl⟩,
    fun k hk => loadWord_rotate_byte s a hk, rfl, fun hmem => ⟨busByte_memory hmem, fun k hk => ?_, fun k hk => ?_⟩,
    fun hext => ⟨busByte_external hext, busHalf_external hext, busWord_external hext⟩⟩
  · rw [busHalf_memory hmem, readHalf_bytes _ _ hk, clearBit0_toNat]
  · rw [busWord_memory hmem, readWord_bytes _ _ _ hk, clearBits10_toNat]

end Sys2Proof.Machine
end

section
/-! PROOFS. The prefetch and the data access (20_memory.md R79, 70_reset_and_hazards.md R362): which of the two comes
first, and what the next two opcodes are. -/

namespace Sys2Proof.Machine

/-! ## The slots after an advance -/

section
variable {b s t u : State}

/-- After an advance the next opcode is the one that stood in the following slot, whatever was stored. -/
theorem Advances.nextOpcode (h : Advances b s t) :
    t.nextOpcode = (s.pipe.opcode.get (s.pipe.index + 1)).setWidth 16 := by
  have hlive (k : Fin 3) : k + 1 ≠ k + 2 := by revert k; decide
  rw [State.nextOpcode, h.index, h.kept _ (hlive _)]

/-- After an advance the slot after that one holds the prefetched halfword. -/
theorem Advances.followingSlot (h : Advances b s t) :
    t.pipe.opcode.get (t.pipe.index + 1) = fetchedHalf b (s.reg pcReg) := by
  rw [h.index, add_assoc]
  exact h.fetched

/-! ## THUMB.11: the prefetch comes last -/

/-- A state whose bus has not yet seen the last event. -/
def State.beforeLastEvent (t : State) : State := { t with trace := t.trace.dropLast }

/-- A prefetch that comes last, after an effect that touches neither the pipeline nor the PC, reads what the bus answers
after that effect. -/
theorem advances_of_last_prefetch (f : ThumbFormat) (hpipe : u.pipe = s.pipe) (hpc : u.reg pcReg = s.reg pcReg) :
    Advances (u.prefetch f).advance.beforeLastEvent s (u.prefetch f).advance := by
  have htrace : (u.prefetch f).advance.beforeLastEvent.trace = u.trace := List.dropLast_concat
  have hfetched : fetchedHalf (u.prefetch f).advance.beforeLastEvent (s.reg pcReg) = fetchedHalf u (s.reg pcReg) :=
    load_congr (s := u) (t := (u.prefetch f).advance.beforeLastEvent) rfl rfl
      (congrArg (List.filterMap BusEvent.access) htrace) _ _ _
  exact advances_of (by rw [index_prefetch, hpipe]) (fun j => by rw [prefetch_slot, hpipe, hpc, hfetched]) hpc

/-- The data access of THUMB.11 comes before its prefetch (44_thumb06_11_load_store.md R210(b)). -/
theorem exec_advances_of_t11 {i : Instr} (hi : formatOf i = some .t11) (h : exec i s = .next t) :
    Advances t.beforeLastEvent s t := by
  cases i
  case strSp => cases h; exact advances_of_last_prefetch .t11 rfl rfl
  case ldrSp => cases h; exact advances_of_last_prefetch .t11 rfl (reg_setReg_of_ne _ _ (pc_ne_low _))
  all_goals cases hi

/-! ## The other formats: the prefetch comes first -/

theorem loadOp_advances {f : ThumbFormat} {rd : LowReg} {a : Word} {w : Width} {e : Widen}
    (h : loadOp f rd a w e s = .next t) : Advances s s t := by
  cases h
  exact advances_of_pipe f rfl (reg_setReg_of_ne _ _ (pc_ne_low rd))

theorem loadInternalOp_advances {f : ThumbFormat} {rd : LowReg} {a : Word} {w : Width} {e : Widen}
    (h : loadInternalOp f rd a w e s = .next t) : Advances s s t := by
  cases h
  exact advances_of_pipe f rfl (reg_setReg_of_ne _ _ (pc_ne_low rd))

theorem storeOp_advances {f : ThumbFormat} {a : Word} {w : Width} {v : Word} (h : storeOp f a w v s = .next t) :
    Advances s s t := by
  cases h
  exact advances_of_pipe f rfl rfl

/-- A run of stores, made after the prefetch, touches neither the PC nor the pipeline. -/
theorem storeWords_pc (a : Word) (tag : SeqTag) (vs : List Word) (s : State) :
    (storeWords a tag vs s).reg pcReg = s.reg pcReg := (storeWords_rest vs a tag s).1.otherRegs _ List.not_mem_nil

theorem storeWords_pipe (a : Word) (tag : SeqTag) (vs : List Word) (s : State) :
    (storeWords a tag vs s).pipe = s.pipe := (storeWords_rest vs a tag s).2.1

theorem execPush_advances {lr : Bool} {rlist : BitVec 8} (h : execPush lr rlist s = .next t) : Advances s s t := by
  unfold execPush at h
  split at h
  · cases h
  · cases h
    exact advances_of_pipe .t14 (storeWords_pipe _ _ _ _)
      ((storeWords_pc _ _ _ _).trans (reg_setReg_of_ne _ _ (by decide)))

theorem execStmia_advances {rb : LowReg} {rlist : BitVec 8} (h : execStmia rb rlist s = .next t) :
    Advances s s t := by
  unfold execStmia at h
  split at h
  · cases h
  · cases h
    exact advances_of_pipe .t15 (storeWords_pipe _ _ _ _)
      ((reg_setReg_of_ne _ _ (pc_ne_low rb)).trans (storeWords_pc _ _ _ _))

theorem execLdmia_advances {rb : LowReg} {rlist : BitVec 8} (h : execLdmia rb rlist s = .next t) :
    Advances s s t := by
  unfold execLdmia at h
  split at h
  · cases h
  · obtain ⟨hframe, hpipe, -, -⟩ := loadWords_spec (listRegs rlist) (s.reg (low rb)) .nonseq (s.prefetch .t15)
      (listRegs_nodup rlist)
    have hpc := hframe.otherRegs pcReg (pc_not_mem_low _)
    dsimp only at h
    split at h
    · cases h
      exact advances_of_pipe .t15 hpipe hpc
    · cases h
      exact advances_of_pipe .t15 hpipe ((reg_setReg_of_ne _ _ (pc_ne_low rb)).trans hpc)

/-- In the other formats with a data access, and in PUSH, the prefetch comes before it. -/
theorem exec_advances {i : Instr} (h11 : formatOf i ≠ some .t11)
    (hi : (∃ f ∈ [ThumbFormat.t7, .t8, .t9, .t10, .t11, .t15], formatOf i = some f) ∨ ∃ lr rlist, i = .push lr rlist)
    (h : exec i s = .next t) : Advances s s t := by
  cases i
  case strRo | strbRo | strhRo | strImm | strbImm | strhImm => exact storeOp_advances h
  case ldrRo | ldrbRo | ldsbRo | ldrhRo | ldshRo => exact loadInternalOp_advances h
  case ldrImm | ldrbImm | ldrhImm => exact loadOp_advances h
  case strSp | ldrSp => exact absurd rfl h11
  case push => exact execPush_advances h
  case stmia => exact execStmia_advances h
  case ldmia => exact execLdmia_advances h
  all_goals simp [formatOf] at hi

end

/-- Settles O59: every one of these instructions advances, and the slot it fills comes from a prefetch that THUMB.11
makes after its data access and every other format before it. -/
theorem storeNotSeenByNextInstruction : Obligations.StoreNotSeenByNextInstruction := by
  intro i s t h hi
  have hadv : Advances (if formatOf i = some .t11 then t.beforeLastEvent else s) s t := by
    split
    · next h11 => exact exec_advances_of_t11 h11 h
    · next h11 => exact exec_advances h11 hi h
  exact ⟨hadv.nextOpcode, hadv.followingSlot⟩

end Sys2Proof.Machine
end

section
/-! PROOFS. The fields of an opcode (30_encoding.md §3): a layout is a concatenation of fields, and an opcode has it
if and only if each of its fields has the value the layout gives. -/

namespace Sys2Proof.Machine

/-! ## Adjacent fields -/

section
variable {op : Opcode} {m n lo : Nat}

theorem opField_whole (op : Opcode) : opField op 0 16 = op := BitVec.extractLsb'_eq_self

/-- A field is its upper part followed by its lower part. -/
theorem opField_join (op : Opcode) (lo m n : Nat) :
    opField op lo (m + n) = opField op (lo + n) m ++ opField op lo n :=
  (BitVec.extractLsb'_append_extractLsb'_eq_extractLsb' rfl).symm

theorem opField_eq_append_iff {x : BitVec m} {y : BitVec n} :
    opField op lo (m + n) = x ++ y ↔ opField op (lo + n) m = x ∧ opField op lo n = y := by
  rw [opField_join]
  constructor
  · intro h
    have hx := congrArg (·.extractLsb' n m) h
    have hy := congrArg (·.extractLsb' 0 n) h
    simp only [BitVec.extractLsb'_append_eq_left, BitVec.extractLsb'_append_eq_right] at hx hy
    exact ⟨hx, hy⟩
  · rintro ⟨rfl, rfl⟩
    rfl

/-- A field of a known field. -/
theorem opField_part {c : BitVec m} (h : opField op lo m = c) (k len : Nat) (hk : k + len ≤ m) :
    opField op (lo + k) len = c.extractLsb' k len := by
  subst h
  ext j hj
  simp [opField, show k + j < m by omega, Nat.add_assoc]

/-- Known bits, and below them a field that a decoder's match has selected. -/
theorem opField_select {c : BitVec m} {k : Fin (2 ^ n)} (hk : (opField op lo n).toFin = k)
    (h : opField op (lo + n) m = c) : opField op lo (m + n) = c ++ BitVec.ofFin k :=
  opField_eq_append_iff.mpr ⟨h, congrArg BitVec.ofFin hk⟩

/-! ## Register fields -/

theorem opField_eq_lowBits_iff {r : LowReg} : opField op lo 3 = lowBits r ↔ lowField op lo = r := by
  rw [← BitVec.toFin_inj]
  rfl

theorem highBit_append_lowThree (r : Reg) : highBit r ++ lowThree r = BitVec.ofFin r :=
  (BitVec.extractLsb'_append_extractLsb'_eq_extractLsb' rfl).trans BitVec.extractLsb'_eq_self

theorem hiField_eq_iff {highAt lowAt : Nat} {r : Reg} :
    hiField op highAt lowAt = r ↔ opField op highAt 1 = highBit r ∧ opField op lowAt 3 = lowThree r := by
  constructor
  · rintro rfl
    exact ⟨BitVec.extractLsb'_append_eq_left.symm, BitVec.extractLsb'_append_eq_right.symm⟩
  · rintro ⟨hhigh, hlow⟩
    rw [hiField, hhigh, hlow, highBit_append_lowThree]

/-! ## Layouts -/

/-- A layout whose lowest field has the `n` bits from `lo` up. -/
theorem layout_append (lo n : Nat) {x : BitVec m} {y : BitVec n} {P Q : Prop} (hx : opField op (lo + n) m = x ↔ P)
    (hy : opField op lo n = y ↔ Q) : opField op lo (m + n) = x ++ y ↔ P ∧ Q :=
  opField_eq_append_iff.trans (and_congr hx hy)

theorem layout_whole {e : Opcode} {P : Prop} (h : opField op 0 16 = e ↔ P) : e = op ↔ P := by
  rw [← h, opField_whole, eq_comm]

/-- THUMB.1, THUMB.9 and THUMB.10 (R93, R101, R102). -/
theorem layout_imm5 {c imm5 : BitVec 5} {rs rd : LowReg} :
    c ++ imm5 ++ lowBits rs ++ lowBits rd = op ↔
      ((opField op 11 5 = c ∧ opField op 6 5 = imm5) ∧ lowField op 3 = rs) ∧ lowField op 0 = rd :=
  layout_whole <| layout_append 0 3 (layout_append 3 3 (layout_append 6 5 .rfl .rfl) opField_eq_lowBits_iff)
    opField_eq_lowBits_iff

/-- THUMB.2 with an immediate (R94). -/
theorem layout_imm3 {c : BitVec 7} {imm3 : BitVec 3} {rs rd : LowReg} :
    c ++ imm3 ++ lowBits rs ++ lowBits rd = op ↔
      ((opField op 9 7 = c ∧ opField op 6 3 = imm3) ∧ lowField op 3 = rs) ∧ lowField op 0 = rd :=
  layout_whole <| layout_append 0 3 (layout_append 3 3 (layout_append 6 3 .rfl .rfl) opField_eq_lowBits_iff)
    opField_eq_lowBits_iff

/-- THUMB.2 with three registers, THUMB.7 and THUMB.8 (R94, R99, R100). -/
theorem layout_threeRegs {c : BitVec 7} {ro rb rd : LowReg} :
    c ++ lowBits ro ++ lowBits rb ++ lowBits rd = op ↔
      ((opField op 9 7 = c ∧ lowField op 6 = ro) ∧ lowField op 3 = rb) ∧ lowField op 0 = rd := by
  rw [layout_imm3, opField_eq_lowBits_iff]

/-- THUMB.4 (R96). -/
theorem layout_twoRegs {c : BitVec 10} {rs rd : LowReg} :
    c ++ lowBits rs ++ lowBits rd = op ↔ (opField op 6 10 = c ∧ lowField op 3 = rs) ∧ lowField op 0 = rd :=
  layout_whole <| layout_append 0 3 (layout_append 3 3 .rfl opField_eq_lowBits_iff) opField_eq_lowBits_iff

/-- THUMB.3, THUMB.6, THUMB.11, THUMB.12 and THUMB.15 (R95, R98, R103, R104, R107). -/
theorem layout_regImm8 {c : BitVec 5} {rd : LowReg} {imm8 : BitVec 8} :
    c ++ lowBits rd ++ imm8 = op ↔ (opField op 11 5 = c ∧ lowField op 8 = rd) ∧ opField op 0 8 = imm8 :=
  layout_whole <| layout_append 0 8 (layout_append 8 3 .rfl opField_eq_lowBits_iff) .rfl

/-- BX of THUMB.5 (R97). -/
theorem layout_bx {c : BitVec 8} {h1 : BitVec 1} {rs : Reg} {rdBits : BitVec 3} :
    c ++ h1 ++ highBit rs ++ lowThree rs ++ rdBits = op ↔
      ((opField op 8 8 = c ∧ opField op 7 1 = h1) ∧ hiField op 6 3 = rs) ∧ opField op 0 3 = rdBits := by
  rw [hiField_eq_iff, ← and_assoc (c := opField op 3 3 = _)]
  exact layout_whole <| layout_append 0 3 (layout_append 3 3 (layout_append 6 1 (layout_append 7 1 .rfl .rfl) .rfl)
    .rfl) .rfl

/-- ADD, CMP and MOV of THUMB.5 (R97). -/
theorem layout_hiRegs {c : BitVec 8} {rs rd : Reg} :
    c ++ highBit rd ++ highBit rs ++ lowThree rs ++ lowThree rd = op ↔
      opField op 8 8 = c ∧ hiField op 6 3 = rs ∧ hiField op 7 0 = rd := by
  rw [layout_bx, hiField_eq_iff (highAt := 7)]
  tauto

/-- THUMB.13 (R105). -/
theorem layout_imm7 {c : BitVec 9} {imm7 : BitVec 7} : c ++ imm7 = op ↔ opField op 7 9 = c ∧ opField op 0 7 = imm7 :=
  layout_whole (layout_append 0 7 .rfl .rfl)

/-- THUMB.14, THUMB.16 and THUMB.17 (R106, R108, R109): the bit R of PUSH and POP is the lowest of `c`. -/
theorem layout_imm8 {c imm8 : BitVec 8} : c ++ imm8 = op ↔ opField op 8 8 = c ∧ opField op 0 8 = imm8 :=
  layout_whole (layout_append 0 8 .rfl .rfl)

/-- THUMB.18 and THUMB.19 (R110, R111). -/
theorem layout_imm11 {c : BitVec 5} {imm11 : BitVec 11} :
    c ++ imm11 = op ↔ opField op 11 5 = c ∧ opField op 0 11 = imm11 :=
  layout_whole (layout_append 0 11 .rfl .rfl)

end

end Sys2Proof.Machine
end

section
/-! PROOFS. Every opcode is the encoding of what it decodes to (30_encoding.md R92), along the decoder's own cases. -/

namespace Sys2Proof.Machine

/-- A well-formed instruction whose encoding is the opcode. -/
def RoundTrip (op : Opcode) (i : Instr) : Prop := i.wellFormed = true ∧ encodeOp i = op

section
variable {op : Opcode}

theorem roundTrip_reserved {top : Byte} (h : opField op 8 8 = top) (hr : isReservedByte top = true) :
    RoundTrip op (.reserved op) := by
  subst h
  exact ⟨hr, rfl⟩

theorem decodeAddSub_roundTrip (h : opField op 11 5 = 0b00011) : RoundTrip op (decodeAddSub op) := by
  unfold decodeAddSub
  dsimp only
  split <;> next h9 => exact ⟨rfl, layout_threeRegs.mpr ⟨⟨⟨opField_select h9 h, rfl⟩, rfl⟩, rfl⟩⟩

theorem decodeShift_roundTrip (h : opField op 13 3 = 0b000) : RoundTrip op (decodeShift op) := by
  unfold decodeShift
  dsimp only
  split
  case h_4 h11 => exact decodeAddSub_roundTrip (opField_select h11 h)
  all_goals next h11 => exact ⟨rfl, layout_imm5.mpr ⟨⟨⟨opField_select h11 h, rfl⟩, rfl⟩, rfl⟩⟩

theorem decodeImm8_roundTrip (h : opField op 13 3 = 0b001) : RoundTrip op (decodeImm8 op) := by
  unfold decodeImm8
  dsimp only
  split <;> next h11 => exact ⟨rfl, layout_regImm8.mpr ⟨⟨opField_select h11 h, rfl⟩, rfl⟩⟩

theorem decodeAlu_roundTrip (h : opField op 10 6 = 0b010000) : RoundTrip op (decodeAlu op) := by
  unfold decodeAlu
  dsimp only
  split <;> next h8 h6 =>
    exact ⟨rfl, layout_twoRegs.mpr ⟨⟨opField_select h6 (opField_select h8 h), rfl⟩, rfl⟩⟩

theorem decodeHi_roundTrip (h : opField op 10 6 = 0b010001) : RoundTrip op (decodeHi op) := by
  unfold decodeHi
  dsimp only
  split
  case h_4 h8 => exact ⟨rfl, layout_bx.mpr ⟨⟨⟨opField_select h8 h, rfl⟩, rfl⟩, rfl⟩⟩
  all_goals next h8 => exact ⟨rfl, layout_hiRegs.mpr ⟨opField_select h8 h, rfl, rfl⟩⟩

theorem decodeRegOffset_roundTrip (h : opField op 12 4 = 0b0101) : RoundTrip op (decodeRegOffset op) := by
  unfold decodeRegOffset
  dsimp only
  split <;> next h9 => exact ⟨rfl, layout_threeRegs.mpr ⟨⟨⟨opField_select h9 h, rfl⟩, rfl⟩, rfl⟩⟩

theorem decodeAluHiLoad_roundTrip (h : opField op 13 3 = 0b010) : RoundTrip op (decodeAluHiLoad op) := by
  unfold decodeAluHiLoad
  split
  · next h11 =>
    split
    · next h10 => exact decodeAlu_roundTrip (opField_select h10 (opField_select h11 h))
    · next h10 => exact decodeHi_roundTrip (opField_select h10 (opField_select h11 h))
  · next h11 => exact ⟨rfl, layout_regImm8.mpr ⟨⟨opField_select h11 h, rfl⟩, rfl⟩⟩
  all_goals next h11 => exact decodeRegOffset_roundTrip (opField_part (opField_select h11 h) 1 4 (by decide))

theorem decodeImmOffset_roundTrip (h : opField op 13 3 = 0b011) : RoundTrip op (decodeImmOffset op) := by
  unfold decodeImmOffset
  dsimp only
  split <;> next h11 => exact ⟨rfl, layout_imm5.mpr ⟨⟨⟨opField_select h11 h, rfl⟩, rfl⟩, rfl⟩⟩

theorem decodeHalfSp_roundTrip (h : opField op 13 3 = 0b100) : RoundTrip op (decodeHalfSp op) := by
  unfold decodeHalfSp
  split
  case h_1 h11 | h_2 h11 => exact ⟨rfl, layout_imm5.mpr ⟨⟨⟨opField_select h11 h, rfl⟩, rfl⟩, rfl⟩⟩
  case h_3 h11 | h_4 h11 => exact ⟨rfl, layout_regImm8.mpr ⟨⟨opField_select h11 h, rfl⟩, rfl⟩⟩

theorem decodeMiscLow_roundTrip (h : opField op 11 5 = 0b10110) : RoundTrip op (decodeMiscLow op) := by
  unfold decodeMiscLow
  split
  case h_1 h8 =>
    split <;> next h7 => exact ⟨rfl, layout_imm7.mpr ⟨opField_select h7 (opField_select h8 h), rfl⟩⟩
  case h_2 h8 | h_3 h8 => exact ⟨rfl, layout_imm8.mpr ⟨opField_select h8 h, rfl⟩⟩
  all_goals next h8 => exact roundTrip_reserved (opField_select h8 h) (by decide)

theorem decodeMiscHigh_roundTrip (h : opField op 11 5 = 0b10111) : RoundTrip op (decodeMiscHigh op) := by
  unfold decodeMiscHigh
  split
  case h_1 h8 | h_2 h8 => exact ⟨rfl, layout_imm8.mpr ⟨opField_select h8 h, rfl⟩⟩
  all_goals next h8 => exact roundTrip_reserved (opField_select h8 h) (by decide)

theorem decodeAddressStack_roundTrip (h : opField op 13 3 = 0b101) : RoundTrip op (decodeAddressStack op) := by
  unfold decodeAddressStack
  split
  case h_1 h11 | h_2 h11 => exact ⟨rfl, layout_regImm8.mpr ⟨⟨opField_select h11 h, rfl⟩, rfl⟩⟩
  case h_3 h11 => exact decodeMiscLow_roundTrip (opField_select h11 h)
  case h_4 h11 => exact decodeMiscHigh_roundTrip (opField_select h11 h)

theorem decodeBranchSwi_roundTrip (h : opField op 12 4 = 0b1101) : RoundTrip op (decodeBranchSwi op) := by
  unfold decodeBranchSwi
  dsimp only
  split <;> next h10 h8 => exact ⟨rfl, layout_imm8.mpr ⟨opField_select h8 (opField_select h10 h), rfl⟩⟩

theorem decodeMultipleBranch_roundTrip (h : opField op 13 3 = 0b110) : RoundTrip op (decodeMultipleBranch op) := by
  unfold decodeMultipleBranch
  split
  case h_1 h11 | h_2 h11 => exact ⟨rfl, layout_regImm8.mpr ⟨⟨opField_select h11 h, rfl⟩, rfl⟩⟩
  all_goals next h11 => exact decodeBranchSwi_roundTrip (opField_part (opField_select h11 h) 1 4 (by decide))

theorem decodeLongBranch_roundTrip (h : opField op 13 3 = 0b111) : RoundTrip op (decodeLongBranch op) := by
  unfold decodeLongBranch
  split
  case h_2 h11 =>
    have hr : ∀ x : BitVec 3, isReservedByte (0b11101#5 ++ x) = true := by decide
    exact roundTrip_reserved (opField_join op 8 5 3) (opField_select h11 h ▸ hr _)
  all_goals next h11 => exact ⟨rfl, layout_imm11.mpr ⟨opField_select h11 h, rfl⟩⟩

end

theorem decodeOp_roundTrip (op : Opcode) : RoundTrip op (decodeOp op) := by
  unfold decodeOp
  split
  case h_1 h => exact decodeShift_roundTrip (BitVec.toFin_inj.mp h)
  case h_2 h => exact decodeImm8_roundTrip (BitVec.toFin_inj.mp h)
  case h_3 h => exact decodeAluHiLoad_roundTrip (BitVec.toFin_inj.mp h)
  case h_4 h => exact decodeImmOffset_roundTrip (BitVec.toFin_inj.mp h)
  case h_5 h => exact decodeHalfSp_roundTrip (BitVec.toFin_inj.mp h)
  case h_6 h => exact decodeAddressStack_roundTrip (BitVec.toFin_inj.mp h)
  case h_7 h => exact decodeMultipleBranch_roundTrip (BitVec.toFin_inj.mp h)
  case h_8 h => exact decodeLongBranch_roundTrip (BitVec.toFin_inj.mp h)

/-- Settles O2: the bits the decoder matched on are the fixed bits of the layout of the instruction it answers. -/
theorem encodeDecode : Obligations.EncodeDecode := decodeOp_roundTrip

end Sys2Proof.Machine
end

section
/-! PROOFS. The format of an opcode (30_encoding.md R91), from the fixed bits of its instruction's layout. -/

namespace Sys2Proof.Machine

section
variable {op : Opcode} {f : Option ThumbFormat}

/-- R91's table reads op[15:8] only: op[9] is a bit of that byte. -/
theorem formatOfRange_congr {op' : Opcode} (h : opField op 8 8 = opField op' 8 8) :
    formatOfRange op = formatOfRange op' := by
  have hbit : ∀ o : Opcode, o.getLsbD 9 = (opField o 8 8).getLsbD 1 := fun o => by simp [opField]
  unfold formatOfRange
  rw [hbit op, hbit op', h, show op.extractLsb' 8 8 = op'.extractLsb' 8 8 from h]

/-- Below op[15:8] any bits do, so that the table is evaluated on closed opcodes. -/
theorem formatOfRange_of_top {c : Byte} (h : opField op 8 8 = c) (hf : formatOfRange (c ++ 0#8) = f) :
    formatOfRange op = f :=
  (formatOfRange_congr (h.trans (layout_imm8.mp rfl).1.symm)).trans hf

theorem formatOfRange_of_five {c : BitVec 5} (h : opField op 11 5 = c)
    (hf : ∀ x : BitVec 3, formatOfRange (c ++ x ++ 0#8) = f) : formatOfRange op = f :=
  formatOfRange_of_top ((opField_eq_append_iff (n := 3)).mpr ⟨h, rfl⟩) (hf _)

theorem formatOfRange_of_seven {c : BitVec 7} (h : opField op 9 7 = c)
    (hf : ∀ x : BitVec 1, formatOfRange (c ++ x ++ 0#8) = f) : formatOfRange op = f :=
  formatOfRange_of_top ((opField_eq_append_iff (n := 1)).mpr ⟨h, rfl⟩) (hf _)

end

theorem formatOfRange_of_encodeOp {i : Instr} {op : Opcode} (hwf : i.wellFormed = true) (h : encodeOp i = op) :
    formatOfRange op = formatOf i := by
  cases i <;> dsimp only [formatOf]
  case lslImm | lsrImm | asrImm | strImm | ldrImm | strbImm | ldrbImm | strhImm | ldrhImm =>
    obtain ⟨⟨⟨hc, -⟩, -⟩, -⟩ := layout_imm5.mp h
    exact formatOfRange_of_five hc (by decide)
  case addImm3 | subImm3 =>
    obtain ⟨⟨⟨hc, -⟩, -⟩, -⟩ := layout_imm3.mp h
    exact formatOfRange_of_seven hc (by decide)
  case addReg | subReg | strRo | strbRo | ldrRo | ldrbRo | strhRo | ldsbRo | ldrhRo | ldshRo =>
    obtain ⟨⟨⟨hc, -⟩, -⟩, -⟩ := layout_threeRegs.mp h
    exact formatOfRange_of_seven hc (by decide)
  case andAlu | eorAlu | lslAlu | lsrAlu | asrAlu | adcAlu | sbcAlu | rorAlu | tstAlu | negAlu | cmpAlu | cmnAlu
      | orrAlu | mulAlu | bicAlu | mvnAlu =>
    obtain ⟨⟨hc, -⟩, -⟩ := layout_twoRegs.mp h
    exact formatOfRange_of_top (opField_part hc 2 8 (by decide)) rfl
  case movImm8 | cmpImm8 | addImm8 | subImm8 | ldrPc | strSp | ldrSp | addPc | addSp | stmia | ldmia =>
    obtain ⟨⟨hc, -⟩, -⟩ := layout_regImm8.mp h
    exact formatOfRange_of_five hc (by decide)
  case addHi | cmpHi | movHi =>
    obtain ⟨hc, -, -⟩ := layout_hiRegs.mp h
    exact formatOfRange_of_top hc rfl
  case bx =>
    obtain ⟨⟨⟨hc, -⟩, -⟩, -⟩ := layout_bx.mp h
    exact formatOfRange_of_top hc rfl
  case incSp | decSp =>
    obtain ⟨hc, -⟩ := layout_imm7.mp h
    exact formatOfRange_of_top (opField_part hc 1 8 (by decide)) rfl
  case push lr _ | pop lr _ =>
    obtain ⟨hc, -⟩ := layout_imm8.mp h
    cases lr <;> exact formatOfRange_of_top hc rfl
  case beq | bne | bcs | bcc | bmi | bpl | bvs | bvc | bhi | bls | bge | blt | bgt | ble | bal | swi =>
    obtain ⟨hc, -⟩ := layout_imm8.mp h
    exact formatOfRange_of_top hc rfl
  case b | blHi | blLo =>
    obtain ⟨hc, -⟩ := layout_imm11.mp h
    exact formatOfRange_of_five hc (by decide)
  case reserved =>
    have hr : ∀ top : Byte, isReservedByte top = true → formatOfRange (top ++ 0#8) = none := by decide
    subst h
    exact formatOfRange_of_top rfl (hr _ hwf)

theorem formatOf_decodeOp (op : Opcode) : formatOf (decodeOp op) = formatOfRange op := by
  obtain ⟨hwf, hop⟩ := decodeOp_roundTrip op
  exact (formatOfRange_of_encodeOp hwf hop).symm

theorem eq_reserved_of_formatOf_none {i : Instr} (h : formatOf i = none) : ∃ op, i = .reserved op := by
  cases i
  case reserved op => exact ⟨op, rfl⟩
  all_goals cases h

end Sys2Proof.Machine
end

section
/-! PROOFS. Every well-formed instruction decodes back from its encoding (30_encoding.md R93 to R111): the layout gives
the fields, and the fixed bits lead the decoder to the instruction's own case. -/

namespace Sys2Proof.Machine

/-! ## The fields that fixed bits determine -/

section
variable {op : Opcode}

theorem fields_of_five {c : BitVec 5} (h : opField op 11 5 = c) :
    opField op 13 3 = c.extractLsb' 2 3 ∧ opField op 11 2 = c.extractLsb' 0 2 :=
  ⟨opField_part h 2 3 (by decide), opField_part h 0 2 (by decide)⟩

theorem fields_of_seven {c : BitVec 7} (h : opField op 9 7 = c) :
    opField op 13 3 = c.extractLsb' 4 3 ∧ opField op 11 2 = c.extractLsb' 2 2 ∧ opField op 9 3 = c.extractLsb' 0 3 ∧
      opField op 9 2 = c.extractLsb' 0 2 :=
  ⟨opField_part h 4 3 (by decide), opField_part h 2 2 (by decide), opField_part h 0 3 (by decide),
    opField_part h 0 2 (by decide)⟩

theorem fields_of_eight {c : BitVec 8} (h : opField op 8 8 = c) :
    opField op 13 3 = c.extractLsb' 5 3 ∧ opField op 11 2 = c.extractLsb' 3 2 ∧ opField op 10 2 = c.extractLsb' 2 2 ∧
      opField op 10 1 = c.extractLsb' 2 1 ∧ opField op 8 3 = c.extractLsb' 0 3 ∧ opField op 8 2 = c.extractLsb' 0 2 :=
  ⟨opField_part h 5 3 (by decide), opField_part h 3 2 (by decide), opField_part h 2 2 (by decide),
    opField_part h 2 1 (by decide), opField_part h 0 3 (by decide), opField_part h 0 2 (by decide)⟩

end

/-! ## Decoding an encoding -/

/-- One case per layout and decoder function. A reserved opcode has no format, and the decoder answers an instruction
without one only as `reserved`. -/
theorem decodeOp_of_encodeOp {i : Instr} {op : Opcode} (hwf : i.wellFormed = true) (h : encodeOp i = op) :
    decodeOp op = i := by
  cases i
  case lslImm | lsrImm | asrImm =>
    obtain ⟨⟨⟨hc, rfl⟩, rfl⟩, rfl⟩ := layout_imm5.mp h
    simp [decodeOp, decodeShift, fields_of_five hc]
  case strImm | ldrImm | strbImm | ldrbImm | strhImm | ldrhImm =>
    obtain ⟨⟨⟨hc, rfl⟩, rfl⟩, rfl⟩ := layout_imm5.mp h
    simp [decodeOp, decodeImmOffset, decodeHalfSp, fields_of_five hc]
  case addImm3 | subImm3 =>
    obtain ⟨⟨⟨hc, rfl⟩, rfl⟩, rfl⟩ := layout_imm3.mp h
    simp [decodeOp, decodeShift, decodeAddSub, fields_of_seven hc]
  case addReg | subReg =>
    obtain ⟨⟨⟨hc, rfl⟩, rfl⟩, rfl⟩ := layout_threeRegs.mp h
    simp [decodeOp, decodeShift, decodeAddSub, fields_of_seven hc]
  case strRo | strbRo | ldrRo | ldrbRo | strhRo | ldsbRo | ldrhRo | ldshRo =>
    obtain ⟨⟨⟨hc, rfl⟩, rfl⟩, rfl⟩ := layout_threeRegs.mp h
    simp [decodeOp, decodeAluHiLoad, decodeRegOffset, fields_of_seven hc]
  case andAlu | eorAlu | lslAlu | lsrAlu | asrAlu | adcAlu | sbcAlu | rorAlu | tstAlu | negAlu | cmpAlu | cmnAlu
      | orrAlu | mulAlu | bicAlu | mvnAlu =>
    obtain ⟨⟨hc, rfl⟩, rfl⟩ := layout_twoRegs.mp h
    simp [decodeOp, decodeAluHiLoad, decodeAlu, fields_of_eight (opField_part hc 2 8 (by decide)),
      opField_part hc 0 2 (by decide)]
  case movImm8 | cmpImm8 | addImm8 | subImm8 =>
    obtain ⟨⟨hc, rfl⟩, rfl⟩ := layout_regImm8.mp h
    simp [decodeOp, decodeImm8, fields_of_five hc]
  case ldrPc | strSp | ldrSp | addPc | addSp | stmia | ldmia =>
    obtain ⟨⟨hc, rfl⟩, rfl⟩ := layout_regImm8.mp h
    simp [decodeOp, decodeAluHiLoad, decodeHalfSp, decodeAddressStack, decodeMultipleBranch, fields_of_five hc]
  case addHi | cmpHi | movHi =>
    obtain ⟨hc, rfl, rfl⟩ := layout_hiRegs.mp h
    simp [decodeOp, decodeAluHiLoad, decodeHi, fields_of_eight hc]
  case bx =>
    obtain ⟨⟨⟨hc, rfl⟩, rfl⟩, rfl⟩ := layout_bx.mp h
    simp [decodeOp, decodeAluHiLoad, decodeHi, fields_of_eight hc]
  case incSp | decSp =>
    obtain ⟨hc, rfl⟩ := layout_imm7.mp h
    simp [decodeOp, decodeAddressStack, decodeMiscLow, fields_of_eight (opField_part hc 1 8 (by decide)),
      opField_part hc 0 1 (by decide)]
  case push lr _ | pop lr _ =>
    obtain ⟨hc, rfl⟩ := layout_imm8.mp h
    cases lr <;> simp [decodeOp, decodeAddressStack, decodeMiscLow, decodeMiscHigh, fields_of_eight hc]
  case beq | bne | bcs | bcc | bmi | bpl | bvs | bvc | bhi | bls | bge | blt | bgt | ble | bal | swi =>
    obtain ⟨hc, rfl⟩ := layout_imm8.mp h
    simp [decodeOp, decodeMultipleBranch, decodeBranchSwi, fields_of_eight hc]
  case b | blHi | blLo =>
    obtain ⟨hc, rfl⟩ := layout_imm11.mp h
    simp [decodeOp, decodeLongBranch, fields_of_five hc]
  case reserved =>
    obtain ⟨hwf', hop⟩ := decodeOp_roundTrip op
    have hnone : formatOf (decodeOp op) = none := (formatOf_decodeOp op).trans (formatOfRange_of_encodeOp hwf h)
    obtain ⟨op', hop'⟩ := eq_reserved_of_formatOf_none hnone
    rw [hop'] at hop ⊢
    exact congrArg Instr.reserved (hop.trans h.symm)

theorem opcodeOfBytes_bytes (op : Opcode) : opcodeOfBytes (op.extractLsb' 0 8) (op.extractLsb' 8 8) = op :=
  (opField_join op 0 8 8).symm.trans (opField_whole op)

/-- Settles O1: the two bytes make up the encoding again, and it decodes to the instruction. -/
theorem decodeEncode : Obligations.DecodeEncode := by
  intro i rest hwf
  change Except.ok (decodeOp (opcodeOfBytes _ _), rest) = _
  rw [opcodeOfBytes_bytes, decodeOp_of_encodeOp hwf rfl]

/-- Settles O5: each word is the encoding of the instruction named with it. -/
theorem specWords : Obligations.SpecWords :=
  ⟨decodeOp_of_encodeOp rfl rfl, decodeOp_of_encodeOp rfl rfl, decodeOp_of_encodeOp rfl rfl,
    decodeOp_of_encodeOp rfl rfl, decodeOp_of_encodeOp rfl rfl, decodeOp_of_encodeOp rfl rfl,
    decodeOp_of_encodeOp rfl rfl, decodeOp_of_encodeOp rfl rfl⟩

end Sys2Proof.Machine
end

section
/-! PROOFS. Every encoding lies in its row, the claims of Laws/PerInstr.lean put together. -/

namespace Sys2Proof.Laws.RowFits

theorem of_instr : ∀ i : Instr, Statement i
  | .lslImm _ _ _ => lslImm _ _ _
  | .lsrImm _ _ _ => lsrImm _ _ _
  | .asrImm _ _ _ => asrImm _ _ _
  | .addReg _ _ _ => addReg _ _ _
  | .subReg _ _ _ => subReg _ _ _
  | .addImm3 _ _ _ => addImm3 _ _ _
  | .subImm3 _ _ _ => subImm3 _ _ _
  | .movImm8 _ _ => movImm8 _ _
  | .cmpImm8 _ _ => cmpImm8 _ _
  | .addImm8 _ _ => addImm8 _ _
  | .subImm8 _ _ => subImm8 _ _
  | .andAlu _ _ => andAlu _ _
  | .eorAlu _ _ => eorAlu _ _
  | .lslAlu _ _ => lslAlu _ _
  | .lsrAlu _ _ => lsrAlu _ _
  | .asrAlu _ _ => asrAlu _ _
  | .adcAlu _ _ => adcAlu _ _
  | .sbcAlu _ _ => sbcAlu _ _
  | .rorAlu _ _ => rorAlu _ _
  | .tstAlu _ _ => tstAlu _ _
  | .negAlu _ _ => negAlu _ _
  | .cmpAlu _ _ => cmpAlu _ _
  | .cmnAlu _ _ => cmnAlu _ _
  | .orrAlu _ _ => orrAlu _ _
  | .mulAlu _ _ => mulAlu _ _
  | .bicAlu _ _ => bicAlu _ _
  | .mvnAlu _ _ => mvnAlu _ _
  | .addHi _ _ => addHi _ _
  | .cmpHi _ _ => cmpHi _ _
  | .movHi _ _ => movHi _ _
  | .bx _ _ _ => bx _ _ _
  | .ldrPc _ _ => ldrPc _ _
  | .strRo _ _ _ => strRo _ _ _
  | .strbRo _ _ _ => strbRo _ _ _
  | .ldrRo _ _ _ => ldrRo _ _ _
  | .ldrbRo _ _ _ => ldrbRo _ _ _
  | .strhRo _ _ _ => strhRo _ _ _
  | .ldsbRo _ _ _ => ldsbRo _ _ _
  | .ldrhRo _ _ _ => ldrhRo _ _ _
  | .ldshRo _ _ _ => ldshRo _ _ _
  | .strImm _ _ _ => strImm _ _ _
  | .ldrImm _ _ _ => ldrImm _ _ _
  | .strbImm _ _ _ => strbImm _ _ _
  | .ldrbImm _ _ _ => ldrbImm _ _ _
  | .strhImm _ _ _ => strhImm _ _ _
  | .ldrhImm _ _ _ => ldrhImm _ _ _
  | .strSp _ _ => strSp _ _
  | .ldrSp _ _ => ldrSp _ _
  | .addPc _ _ => addPc _ _
  | .addSp _ _ => addSp _ _
  | .incSp _ => incSp _
  | .decSp _ => decSp _
  | .push _ _ => push _ _
  | .pop _ _ => pop _ _
  | .stmia _ _ => stmia _ _
  | .ldmia _ _ => ldmia _ _
  | .beq _ => beq _
  | .bne _ => bne _
  | .bcs _ => bcs _
  | .bcc _ => bcc _
  | .bmi _ => bmi _
  | .bpl _ => bpl _
  | .bvs _ => bvs _
  | .bvc _ => bvc _
  | .bhi _ => bhi _
  | .bls _ => bls _
  | .bge _ => bge _
  | .blt _ => blt _
  | .bgt _ => bgt _
  | .ble _ => ble _
  | .bal _ => bal _
  | .swi _ => swi _
  | .b _ => b _
  | .blHi _ => blHi _
  | .blLo _ => blLo _
  | .reserved _ => reserved _

end Sys2Proof.Laws.RowFits
end

section
/-! PROOFS. The opcode table (30_encoding.md R92): any two rows differ in a bit that both fix, so that the row of the
decoded instruction is the only one that covers an opcode; no row fixes a bit of op[5:0]. -/

namespace Sys2Proof.Machine

/-! ## One row at most -/

/-- Two rows fix some bit to different values. -/
def rowsApart (r r' : OpcodeRow) : Bool := (r.pattern ^^^ r'.pattern) &&& (r.mask &&& r'.mask) != 0

theorem not_covers_of_rowsApart {r r' : OpcodeRow} {op : Opcode} (h : rowsApart r r' = true)
    (hr : r.covers op = true) : ¬ r'.covers op = true := by
  intro hr'
  simp only [OpcodeRow.covers, beq_iff_eq] at hr hr'
  simp only [rowsApart, bne_iff_ne, ← hr, ← hr'] at h
  have hbit : ∀ o m m' : Bool, (((o && m) ^^ (o && m')) && (m && m')) = false := by decide
  exact h (BitVec.eq_of_getLsbD_eq fun j _ => by simpa using hbit (op.getLsbD j) (r.mask.getLsbD j) (r'.mask.getLsbD j))

theorem opcodeTable_rowsApart : opcodeTable.Pairwise (rowsApart · · = true) := by decide

/-- Of elements of which no two have the property, the filter keeps the one that has it. -/
theorem filter_eq_singleton {α : Type} {p : α → Bool} {a : α} (hp : p a = true) : ∀ {l : List α}, a ∈ l →
    (l.Pairwise fun b c => p b = true → ¬ p c = true) → l.filter p = [a]
  | [], ha, _ => by cases ha
  | b :: l, ha, h => by
    obtain ⟨hb, hl⟩ := List.pairwise_cons.mp h
    rcases List.mem_cons.mp ha with rfl | ha
    · rw [List.filter_cons_of_pos hp, List.filter_eq_nil_iff.mpr fun c hc => hb c hc hp]
    · rw [List.filter_cons_of_neg fun hpb => hb a ha hpb hp, filter_eq_singleton hp ha hl]

theorem filter_covers_eq {r : OpcodeRow} {op : Opcode} (hr : r ∈ opcodeTable) (hc : r.covers op = true) :
    opcodeTable.filter (fun r => r.covers op) = [r] :=
  filter_eq_singleton (p := fun r => r.covers op) hc hr (opcodeTable_rowsApart.imp not_covers_of_rowsApart)

/-! ## The row of the decoded instruction -/

theorem decodeOp_row (op : Opcode) : ∃ r ∈ opcodeTable, r.mnemonic = (decodeOp op).mnemonic ∧ r.covers op = true := by
  obtain ⟨hwf, hop⟩ := decodeOp_roundTrip op
  simpa only [hop] using Laws.RowFits.of_instr (decodeOp op) hwf

/-- Settles O3: the encoding of the decoded instruction, which is the opcode, lies in its row, and no other row covers
it. -/
theorem oneTableRow : Obligations.OneTableRow := by
  intro op
  obtain ⟨r, hr, hm, hc⟩ := decodeOp_row op
  exact ⟨r, filter_covers_eq hr hc, hm⟩

/-! ## The index op[15:6] -/

theorem mask_eq_append : ∀ r ∈ opcodeTable, r.mask = opField r.mask 6 10 ++ 0#6 := by decide

theorem and_mask_eq {r : OpcodeRow} (hr : r ∈ opcodeTable) (op : Opcode) :
    op &&& r.mask = (opField op 6 10 &&& opField r.mask 6 10) ++ 0#6 := by
  have hop : opField op 6 10 ++ opField op 0 6 = op := (opField_join op 0 10 6).symm.trans (opField_whole op)
  calc op &&& r.mask = (opField op 6 10 ++ opField op 0 6) &&& (opField r.mask 6 10 ++ 0#6) := by
        rw [hop, ← mask_eq_append r hr]
    _ = _ := Laws.RowFits.field rfl _

/-- Settles O4: the format by the round trip of the opcode, and the row because its mask lies within op[15:6]. -/
theorem formatRanges : Obligations.FormatRanges := by
  refine ⟨formatOf_decodeOp, fun op op' hindex => ?_⟩
  obtain ⟨r, hr, hm, hc⟩ := decodeOp_row op
  obtain ⟨r', hr', hm', hc'⟩ := decodeOp_row op'
  have hsame : r'.covers op = r'.covers op' := by
    simp only [OpcodeRow.covers, and_mask_eq hr', opField, hindex]
  have hrow : [r] = [r'] := (filter_covers_eq hr hc).symm.trans (filter_covers_eq hr' (hsame.trans hc'))
  rw [← hm, ← hm', List.singleton_inj.mp hrow]

end Sys2Proof.Machine
end

section
/-! PROOFS. The arithmetic of 40_pipeline_shifter_flags.md: the barrel shifter (R130 to R134), the adders (R136 to
R139) and the condition table (R140). -/

namespace Sys2Proof.Machine

/-! ## A shift by 1 to 31 -/

theorem shiftWithin_lsl (v : Word) (n : Nat) :
    shiftWithin .lsl v n = ⟨BitVec.ofNat 32 (v.toNat * 2 ^ n), v.getLsbD (32 - n)⟩ := by
  have hvalue : v <<< n = BitVec.ofNat 32 (v.toNat * 2 ^ n) := by
    rw [← Nat.shiftLeft_eq]
    rfl
  rw [shiftWithin, hvalue]

theorem shiftWithin_lsr (v : Word) (n : Nat) :
    shiftWithin .lsr v n = ⟨BitVec.ofNat 32 (v.toNat / 2 ^ n), v.getLsbD (n - 1)⟩ := by
  have hvalue : v >>> n = BitVec.ofNat 32 (v.toNat / 2 ^ n) := by
    rw [← Nat.shiftRight_eq_div_pow, ← BitVec.toNat_ushiftRight, BitVec.ofNat_toNat, BitVec.setWidth_eq]
  rw [shiftWithin, hvalue]

/-- An arithmetic shift puts the sign above the bits that a logical one leaves. -/
theorem shiftWithin_asr (v : Word) {n : Nat} (hn : n < 32) :
    shiftWithin .asr v n =
      ⟨(v >>> n) ||| (if v.getLsbD 31 then 0xFFFFFFFF#32 <<< (32 - n) else 0), v.getLsbD (n - 1)⟩ := by
  have hvalue : v.sshiftRight n = (v >>> n) ||| (if v.getLsbD 31 then 0xFFFFFFFF#32 <<< (32 - n) else 0) := by
    apply BitVec.eq_of_getLsbD_eq
    intro i hi
    rw [BitVec.getLsbD_sshiftRight, BitVec.getLsbD_or, BitVec.getLsbD_ushiftRight, apply_ite (BitVec.getLsbD · i),
      show 0xFFFFFFFF#32 = BitVec.allOnes 32 from rfl, BitVec.getLsbD_shiftLeft, BitVec.getLsbD_allOnes]
    change (_ && if n + i < 32 then _ else v.getLsbD 31) = _
    by_cases hlow : n + i < 32
    · simp [hi, hlow, show i < 32 - n by omega]
    · simp [hi, hlow, show ¬ i < 32 - n by omega, show i - (32 - n) < 32 by omega,
        BitVec.getLsbD_of_ge v (n + i) (by omega)]
  rw [shiftWithin, hvalue]

/-- A rotation is the two opposite shifts put together. -/
theorem shiftWithin_ror (v : Word) {n : Nat} (hn : n < 32) :
    shiftWithin .ror v n = ⟨(v >>> n) ||| (v <<< (32 - n)), v.getLsbD (n - 1)⟩ := by
  rw [shiftWithin, BitVec.rotateRight_eq_rotateRightAux_of_lt hn]
  rfl

/-- Rotation through carry: the carry comes in above the bits shifted down (R133). -/
theorem setBit_shiftRight_one (v : Word) (c : Bool) :
    setBit (v >>> 1) 31 c = ((if c then 1#32 else 0#32) <<< 31) ||| (v >>> 1) := by
  apply BitVec.eq_of_getLsbD_eq
  intro i hi
  rw [bit_setBit _ _ _ (by decide), BitVec.getLsbD_or, BitVec.getLsbD_shiftLeft, BitVec.getLsbD_ushiftRight]
  by_cases h : i = 31
  · rw [if_pos h, h, BitVec.getLsbD_of_ge v (1 + 31) (by decide)]
    cases c <;> rfl
  · rw [if_neg h, decide_eq_true (show i < 31 by omega), Bool.not_true, Bool.and_false, Bool.false_and, Bool.false_or]

/-! ## `ShiftImm` and `ShiftReg` -/

theorem shiftImm_eq (k : ShiftType) (v : Word) (n : BitVec 5) (c : Bool) :
    shiftImm k v n c = if n.toNat = 0 then shiftImmZero k v c else shiftWithin k v n.toNat :=
  if_congr BitVec.toNat_eq rfl rfl

/-- Settles O15: amount 0 as `shiftImmZero` says, else the shift by `n < 32`. -/
theorem immediateShifts : Obligations.ImmediateShifts := by
  intro v n c
  have hn : n.toNat < 32 := n.isLt
  rw [shiftImm_eq, shiftImm_eq, shiftImm_eq, shiftImm_eq, shiftWithin_lsl, shiftWithin_lsr, shiftWithin_asr v hn,
    shiftWithin_ror v hn, shiftImmZero, shiftImmZero, shiftImmZero, shiftImmZero, setBit_shiftRight_one]
  exact ⟨rfl, rfl, rfl, rfl⟩

theorem shiftReg_within (k : ShiftType) (v : Word) {n : BitVec 8} (c : Bool) (h0 : 0 < n.toNat) (h32 : n.toNat < 32) :
    shiftReg k v n c = shiftWithin k v n.toNat := by
  have hne : n ≠ 0 := fun h => by rw [h] at h0; exact absurd h0 (by decide)
  rw [shiftReg, if_neg hne, if_pos h32]

theorem shiftReg_large (k : ShiftType) (v : Word) {n : BitVec 8} (c : Bool) (h32 : 32 ≤ n.toNat) :
    shiftReg k v n c = shiftRegLarge k v n.toNat := by
  have hne : n ≠ 0 := fun h => by rw [h] at h32; exact absurd h32 (by decide)
  rw [shiftReg, if_neg hne, if_neg (by omega)]

/-- Settles O16, along the three ranges of the table of R134. -/
theorem registerShifts : Obligations.RegisterShifts := by
  intro v n c
  refine ⟨fun h k => ?_, fun h0 h32 => ?_, fun h32 => ?_⟩
  · rw [BitVec.eq_of_toNat_eq (y := 0#8) h]
    exact shiftReg_zero k v c
  · simp only [shiftReg_within _ v c h0 h32]
    exact ⟨shiftWithin_lsl v _, shiftWithin_lsr v _, shiftWithin_asr v h32, shiftWithin_ror v h32⟩
  · simp only [shiftReg_large _ v c h32, shiftRegLarge]
    refine ⟨?_, ?_, rfl, fun hm => if_pos hm, fun hm => ?_⟩
    · by_cases h : n.toNat = 32 <;> simp [h]
    · by_cases h : n.toNat = 32 <;> simp [h]
    · rw [if_neg hm, shiftWithin_ror v (Nat.mod_lt _ (by decide))]

/-! ## The adders (R136 to R139): all four are one addition with carry -/

theorem addFlags_eq_adcFlags (a b : Word) : addFlags a b = adcFlags a b false := rfl

/-- A subtraction overflows as the addition of the complement does. -/
theorem subOverflow_eq_addOverflow (a b r : Word) : subOverflow a b r = addOverflow a (~~~b) r := by
  rw [subOverflow, addOverflow, BitVec.not_xor_right, BitVec.not_not]

theorem sbcFlags_eq_adcFlags (a b : Word) (c : Bool) : sbcFlags a b c = adcFlags a (~~~b) c := by
  rw [sbcFlags, subOverflow_eq_addOverflow]
  rfl

theorem sub_eq_add_complement (a b : Word) : a - b = a + ~~~b + 1#32 := by
  rw [BitVec.sub_eq_add_neg, BitVec.neg_eq_not_add, BitVec.add_assoc]

/-- In two's complement `a - b` is `a + ~b + 1`, and a carry out of it is no borrow. -/
theorem subFlags_eq_adcFlags (a b : Word) : subFlags a b = adcFlags a (~~~b) true := by
  have hvalue : a - b = BitVec.ofNat 32 (a.toNat + (~~~b).toNat + 1) := by
    simp only [sub_eq_add_complement, BitVec.ofNat_add, BitVec.ofNat_toNat, BitVec.setWidth_eq]
  have hcarry : b.toNat ≤ a.toNat ↔ 2 ^ 32 ≤ a.toNat + (~~~b).toNat + 1 := by
    rw [BitVec.toNat_not]
    omega
  rw [subFlags, subOverflow_eq_addOverflow, decide_eq_decide.mpr hcarry, hvalue]
  rfl

theorem adcFlags_value (a b : Word) (c : Bool) : (adcFlags a b c).value = a + b + (if c then 1 else 0) := by
  rw [adcFlags]
  simp only [BitVec.ofNat_add, BitVec.ofNat_toNat, BitVec.setWidth_eq]
  cases c <;> rfl

theorem adcFlags_carry (a b : Word) (c : Bool) :
    (adcFlags a b c).carry = true ↔ 2 ^ 32 ≤ a.toNat + b.toNat + c.toNat := decide_eq_true_iff

theorem signBit_eq_decide (w : Word) : w.getLsbD 31 = decide (2 ^ 31 ≤ w.toNat) := BitVec.msb_eq_decide w

theorem addOverflow_iff (a b r : Word) :
    addOverflow a b r = true ↔ (2 ^ 31 ≤ a.toNat ↔ 2 ^ 31 ≤ b.toNat) ∧ ¬(2 ^ 31 ≤ a.toNat ↔ 2 ^ 31 ≤ r.toNat) := by
  rw [addOverflow, BitVec.getLsbD_and, BitVec.getLsbD_not, BitVec.getLsbD_xor, BitVec.getLsbD_xor]
  simp only [signBit_eq_decide, ← Bool.bne_eq_xor, Bool.and_eq_true, Bool.not_eq_true', bne_eq_false_iff_eq, bne_iff_ne,
    ne_eq, decide_eq_decide, Nat.reduceLT, decide_true, true_and]

/-- The sum modulo 2^32 has the wrong sign exactly when the signed sum is out of range. -/
theorem adcFlags_overflow (a b : Word) (c : Bool) :
    (adcFlags a b c).overflow = true ↔
      a.toInt + b.toInt + c.toNat < -2 ^ 31 ∨ 2 ^ 31 ≤ a.toInt + b.toInt + c.toNat := by
  have hsum : (BitVec.ofNat 32 (a.toNat + b.toNat + c.toNat)).toNat = (a.toNat + b.toNat + c.toNat) % 2 ^ 32 :=
    BitVec.toNat_ofNat _ _
  have hc : c.toNat ≤ 1 := Bool.toNat_le c
  rw [adcFlags, addOverflow_iff, hsum, BitVec.toInt_eq_toNat_cond, BitVec.toInt_eq_toNat_cond]
  omega

theorem toInt_complement (b : Word) : (~~~b).toInt = -b.toInt - 1 := by
  rw [BitVec.toInt_eq_toNat_cond, BitVec.toInt_eq_toNat_cond, BitVec.toNat_not]
  omega

/-- Settles O17, from the value, the carry and the overflow of an addition with carry. -/
theorem adderFlags : Obligations.AdderFlags := by
  intro a b c
  have hc : c.toNat ≤ 1 := Bool.toNat_le c
  refine ⟨?_, ?_, ⟨adcFlags_value a b c, adcFlags_carry a b c, adcFlags_overflow a b c⟩, ?_⟩
  · rw [addFlags_eq_adcFlags, adcFlags_value, adcFlags_carry, adcFlags_overflow]
    simp
  · refine ⟨rfl, decide_eq_true_iff, ?_⟩
    rw [subFlags_eq_adcFlags, adcFlags_overflow, toInt_complement, Bool.toNat_true]
    omega
  · rw [sbcFlags_eq_adcFlags, adcFlags_value, adcFlags_carry, adcFlags_overflow, toInt_complement, BitVec.toNat_not]
    refine ⟨?_, by omega, by omega⟩
    cases c <;> simp [sub_eq_add_complement a b]

/-! ## Conditions -/

/-- Settles O18, row by row: the rows of one flag, and those of two or three. -/
theorem conditionTable : Obligations.ConditionTable := by
  intro p
  have clear (b : Bool) : (!b) = true ↔ b = false := iff_of_eq (Bool.not_eq_true' b)
  refine ⟨Iff.rfl, clear _, Iff.rfl, clear _, Iff.rfl, clear _, Iff.rfl, clear _, ?hi, ?ls, beq_iff_eq, bne_iff_ne,
    ?gt, ?le, rfl⟩
  case hi => rw [condPassed, Bool.and_eq_true, clear]
  case ls => rw [condPassed, Bool.or_eq_true, clear]
  case gt => rw [condPassed, Bool.and_eq_true, clear, beq_iff_eq]
  case le => rw [condPassed, Bool.or_eq_true, bne_iff_ne]

end Sys2Proof.Machine
end

section
/-! PROOFS. The pipeline (40_pipeline_shifter_flags.md): its primitives (R120 to R123), and which opcode a step runs
(R126). -/

namespace Sys2Proof.Machine

/-! ## The primitives -/

/-- Settles O13, from what each primitive does to the slots and its frame. -/
theorem pipelinePrimitives : Obligations.PipelinePrimitives := by
  intro s f t
  refine ⟨⟨?_, fun k hk => ?_, rfl, rfl, frame_prefetch s f⟩, ⟨rfl, ?_, rfl, rfl, frame_advance s⟩,
    ⟨refillsThumb_jump s t, rfl, frame_jumpThumb s t⟩, refillsArm_jump s t, rfl, frame_jumpArm s t⟩
  · rw [prefetch_slot, if_pos rfl]
  · rw [prefetch_slot, if_neg hk]
  · rw [reg_advance, reg_setReg_same]

/-! ## The opcode of a step -/

/-- A step in THUMB state that takes no interrupt. -/
theorem step_of_not_irqTaken {s : State} (hT : psrT s.cpsr = true) (hirq : s.irqTaken = false) :
    step s = exec (decodeOp s.nextOpcode) s.sampled := by
  rw [step, if_pos hT, hirq, if_neg Bool.false_ne_true]

theorem irqTaken_eq_false {s : State} (h : s.irqLine.headD false = false ∨ psrI s.cpsr = true) :
    s.irqTaken = false := by
  rw [State.irqTaken, State.irqActive]
  obtain h | h := h
  · rw [h, Bool.false_and]
  · rw [h, Bool.not_true, Bool.and_false]

theorem clearBit0_of_even {a : Word} (h : a.getLsbD 0 = false) : clearBit0 a = a := by
  have heven : decide (a.toNat % 2 = 1) = false := (Nat.testBit_zero _).symm.trans h
  apply BitVec.eq_of_toNat_eq
  rw [clearBit0_toNat]
  simp only [decide_eq_false_iff_not] at heven
  omega

/-- A halfword at an even address is its two bytes, the first one low. -/
theorem readHalf_of_even (m : Memory) {a : Word} (h : a.getLsbD 0 = false) :
    readHalf m a = opcodeOfBytes (m.read a.toNat) (m.read (a.toNat + 1)) := by
  rw [readHalf, clearBit0_of_even h]
  rfl

/-- Settles O6: the slot's low half is the opcode, and the two bytes at an even A make up the same opcode. -/
theorem stepRunsDecoded : Obligations.StepRunsDecoded := by
  intro s hT hirq
  have hstep := step_of_not_irqTaken hT (irqTaken_eq_false hirq)
  refine ⟨hstep, fun i hslot heven hdecode => ?_⟩
  have hA : (s.reg pcReg - 4).getLsbD 0 = false := by
    rw [BitVec.sub_eq_add_neg, bit0_add, heven]
    rfl
  have hop : s.nextOpcode = readHalf s.mem (s.reg pcReg - 4) := by
    rw [State.nextOpcode, hslot]
    exact BitVec.setWidth_setWidth_of_le _ (by decide)
  rw [hstep, hop, readHalf_of_even s.mem hA]
  cases hdecode
  rfl

end Sys2Proof.Machine
end

section
/-! PROOFS. The order of an instruction's bus accesses and its ending (40_pipeline_shifter_flags.md R125, R127): once
for each way to end, then shape by shape. -/

namespace Sys2Proof.Machine

/-! ## Data accesses -/

/-- None of the events is a 16-bit opcode read. -/
def NoOpcodeRead (data : List BusEvent) : Prop := ∀ e ∈ data, isOpcodeRead e = false

theorem noOpcodeRead_nil : NoOpcodeRead [] := fun _ he => absurd he List.not_mem_nil

theorem noOpcodeRead_cons {e : BusEvent} {es : List BusEvent} (h : isOpcodeRead e = false) (hs : NoOpcodeRead es) :
    NoOpcodeRead (e :: es) := List.forall_mem_cons.mpr ⟨h, hs⟩

theorem noOpcodeRead_append {es es' : List BusEvent} (h : NoOpcodeRead es) (h' : NoOpcodeRead es') :
    NoOpcodeRead (es ++ es') := List.forall_mem_append.mpr ⟨h, h'⟩

theorem noOpcodeRead_storeEvents : ∀ (a : Word) (tag : SeqTag) (vs : List Word), NoOpcodeRead (storeEvents a tag vs)
  | _, _, [] => noOpcodeRead_nil
  | a, _, _ :: vs => noOpcodeRead_cons rfl (noOpcodeRead_storeEvents (a + 4) .seq vs)

theorem noOpcodeRead_loadEvents : ∀ (a : Word) (tag : SeqTag) (n : Nat), NoOpcodeRead (loadEvents a tag n)
  | _, _, 0 => noOpcodeRead_nil
  | a, _, n + 1 => noOpcodeRead_cons rfl (noOpcodeRead_loadEvents (a + 4) .seq n)

/-! ## The order of a handler, by the way it ends -/

/-- What the handler contract says of an instruction of format `f` from `s` to `t`. -/
def HandlerOrdered (f : ThumbFormat) (s t : State) : Prop :=
  ∃ data ending : List BusEvent,
    t.trace = s.trace ++ (if f = .t11 then data ++ [prefetchEvent f s] else prefetchEvent f s :: data) ++ ending ∧
    NoOpcodeRead data ∧ (f = .t11 → data.length = 1) ∧
    ((ending = [] ∧ t.reg pcReg = s.reg pcReg + 2 ∧ t.pipe.index = s.pipe.index + 1 ∧ psrT t.cpsr = true) ∨
      ∃ (target : Word) (b : State), b = { t with trace := s.trace ++ prefetchEvent f s :: data } ∧
        (ending = refillThumbEvents target ∧ RefillsThumb target (deadSlot s) b t ∧ psrT t.cpsr = true ∨
          ending = refillArmEvents target ∧ RefillsArm target (deadSlot s) b t ∧ psrT t.cpsr = false))

section
variable {f : ThumbFormat} {rd : LowReg} {s t u : State} {regs : List Reg} {bits : List Nat} {data : List BusEvent}

/-- A prefetch, the data accesses, and the advance. -/
theorem ordered_of_advances {b : State} (h11 : f ≠ .t11) (hT : psrT s.cpsr = true)
    (hframe : Frame regs bits (prefetchEvent f s :: data) s t) (hbits : bitT ∉ bits) (hadv : Advances b s t)
    (hdata : NoOpcodeRead data) : HandlerOrdered f s t :=
  ⟨data, [], by rw [if_neg h11, List.append_nil, hframe.trace], hdata, fun h => absurd h h11,
    .inl ⟨rfl, hadv.pc, hadv.index, by rw [psrT_of_frame hframe hbits, hT]⟩⟩

theorem ordered_of_quiet (h11 : f ≠ .t11) (hT : psrT s.cpsr = true) (h : Quiet f regs bits s t) (hbits : bitT ∉ bits) :
    HandlerOrdered f s t := ordered_of_advances h11 hT h.frame hbits h.advances noOpcodeRead_nil

/-- On THUMB.11 the one data access, then the prefetch and the advance. -/
theorem ordered_of_last_prefetch {e : BusEvent} (hT : psrT s.cpsr = true) (hframe : Frame regs [] [e] s u)
    (he : isOpcodeRead e = false) (hpipe : u.pipe = s.pipe) (hpc : u.reg pcReg = s.reg pcReg) :
    HandlerOrdered .t11 s (u.prefetch .t11).advance := by
  have hadv := advances_of_last_prefetch .t11 hpipe hpc
  refine ⟨[e], [], ?_, noOpcodeRead_cons he noOpcodeRead_nil, fun _ => rfl, .inl ⟨rfl, hadv.pc, hadv.index, ?_⟩⟩
  · rw [trace_advance, prefetch_event, hframe.trace, if_pos rfl, List.append_nil, List.append_assoc, prefetchEvent,
      prefetchEvent, hpc]
  · exact (psrT_of_frame hframe List.not_mem_nil).trans hT

/-- A prefetch, the data accesses, and a THUMB refill. -/
theorem ordered_of_refill {target : Word} (h11 : f ≠ .t11) (hT : psrT s.cpsr = true)
    (hframe : Frame regs [] (prefetchEvent f s :: data) s u) (hdead : u.pipe.opcode.get 2 = deadSlot s)
    (hdata : NoOpcodeRead data) : HandlerOrdered f s (u.jumpThumb target) := by
  refine ⟨data, _, ?_, hdata, fun h => absurd h h11, .inr ⟨target, _, rfl, .inl ⟨rfl, ?_, ?_⟩⟩⟩
  · rw [if_neg h11, (frame_jumpThumb u target).trace, hframe.trace]
  · exact refillsThumb_of target hdead rfl rfl hframe.trace
  · exact (psrT_of_frame hframe List.not_mem_nil).trans hT

/-- A prefetch, and an ARM refill with T cleared. -/
theorem ordered_of_refillArm {target : Word} (h11 : f ≠ .t11) (hT : psrT u.cpsr = false)
    (htrace : u.trace = s.trace ++ [prefetchEvent f s]) (hdead : u.pipe.opcode.get 2 = deadSlot s) :
    HandlerOrdered f s (u.jumpArm target) := by
  refine ⟨[], _, ?_, noOpcodeRead_nil, fun h => absurd h h11, .inr ⟨target, _, rfl, .inr ⟨rfl, ?_, hT⟩⟩⟩
  · rw [if_neg h11, (frame_jumpArm u target).trace, htrace]
  · exact refillsArm_of target hdead rfl rfl htrace

/-! ## The shapes -/

theorem arithOp_quiet {r : Arith} (h : arithOp f rd r s = .next t) :
    Quiet f [low rd] [bitN, bitZ, bitC, bitV] s t := by
  cases h
  exact quiet_write f _ _ _ _ s (low_ne_pc rd) (putNZCV_others r _)

theorem compareOp_quiet {r : Arith} (h : compareOp f r s = .next t) : Quiet f [] [bitN, bitZ, bitC, bitV] s t := by
  cases h
  exact quiet_status f _ _ s (putNZCV_others r _)

theorem shiftOp_quiet {r : Shifted} (h : shiftOp f rd r s = .next t) : Quiet f [low rd] [bitN, bitZ, bitC] s t := by
  cases h
  exact quiet_write f _ _ _ _ s (low_ne_pc rd) (putNZC_others _ _ _)

theorem logicOp_quiet {r : Word} (h : logicOp f rd r s = .next t) : Quiet f [low rd] [bitN, bitZ] s t := by
  cases h
  exact quiet_write f _ _ _ _ s (low_ne_pc rd) (putNZ_others _ _)

theorem testOp_quiet {r : Word} (h : testOp f r s = .next t) : Quiet f [] [bitN, bitZ] s t := by
  cases h
  exact quiet_status f _ _ s (putNZ_others _ _)

theorem moveOp_quiet {r : Reg} {v : Word} (hr : r ≠ pcReg) (h : moveOp f r v s = .next t) : Quiet f [r] [] s t := by
  cases h
  exact quiet_write f r v s.cpsr [] s hr fun _ _ => rfl

theorem loadOp_ordered {a : Word} {w : Width} {e : Widen} (h11 : f ≠ .t11) (hT : psrT s.cpsr = true)
    (he : isOpcodeRead (.read a w .nonseq e) = false) (h : loadOp f rd a w e s = .next t) : HandlerOrdered f s t := by
  obtain ⟨_, h', -, hframe, -, hadv⟩ := loadOp_spec f rd a w e s
  cases h'.symm.trans h
  exact ordered_of_advances h11 hT hframe (by decide) hadv (noOpcodeRead_cons he noOpcodeRead_nil)

theorem loadInternalOp_ordered {a : Word} {w : Width} {e : Widen} (h11 : f ≠ .t11) (hT : psrT s.cpsr = true)
    (he : isOpcodeRead (.read a w .nonseq e) = false) (h : loadInternalOp f rd a w e s = .next t) :
    HandlerOrdered f s t := by
  obtain ⟨_, h', -, hframe, -, hadv⟩ := loadInternalOp_spec f rd a w e s
  cases h'.symm.trans h
  exact ordered_of_advances h11 hT hframe (by decide) hadv (noOpcodeRead_cons he (noOpcodeRead_cons rfl noOpcodeRead_nil))

theorem storeOp_ordered {a : Word} {w : Width} {v : Word} (h11 : f ≠ .t11) (hT : psrT s.cpsr = true)
    (h : storeOp f a w v s = .next t) : HandlerOrdered f s t := by
  have hadv := storeOp_advances h
  cases h
  exact ordered_of_advances h11 hT
    (frame_trans (frame_trans (frame_prefetch s f) (frame_store _ a w v .nonseq)) (frame_advance _))
    List.not_mem_nil hadv (noOpcodeRead_cons rfl noOpcodeRead_nil)

theorem branchOp_ordered {target : Word} (h11 : f ≠ .t11) (hT : psrT s.cpsr = true)
    (h : branchOp f target s = .next t) : HandlerOrdered f s t := by
  cases h
  exact ordered_of_refill h11 hT (frame_prefetch s f) (prefetch_slot_two s f) noOpcodeRead_nil

theorem condBranchOp_ordered {c : Cond} {imm8 : BitVec 8} (hT : psrT s.cpsr = true)
    (h : condBranchOp c imm8 s = .next t) : HandlerOrdered .t16 s t := by
  unfold condBranchOp at h
  split at h
  · exact branchOp_ordered (by decide) hT h
  · cases h
    exact ordered_of_quiet (by decide) hT (quiet_none .t16 s) List.not_mem_nil

theorem moveHiOp_ordered {r : Reg} {v : Word} (hT : psrT s.cpsr = true) (h : moveHiOp r v s = .next t) :
    HandlerOrdered .t5 s t := by
  unfold moveHiOp at h
  split at h
  · exact branchOp_ordered (by decide) hT h
  · next hr => exact ordered_of_quiet (by decide) hT (moveOp_quiet hr h) List.not_mem_nil

/-! ## The instructions of a shape of their own -/

theorem execMulAlu_ordered {rs : LowReg} (hT : psrT s.cpsr = true) (h : execMulAlu rd rs s = .next t) :
    HandlerOrdered .t4 s t := by
  cases h
  exact ordered_of_advances (by decide) hT
    (frame_trans (frame_trans (frame_trans (frame_trans (frame_prefetch s .t4) (frame_setReg _ _ _))
      (frame_setCpsr _ (putNZC_others _ s.cpsr false))) (frame_emit _ _)) (frame_advance _)) (by decide)
    (advances_of_pipe .t4 rfl (reg_setReg_of_ne _ _ (pc_ne_low rd))) (noOpcodeRead_cons rfl noOpcodeRead_nil)

theorem execBx_ordered {rs : Reg} {h1 : BitVec 1} {d : BitVec 3} (hT : psrT s.cpsr = true)
    (h : execBx rs h1 d s = .next t) : HandlerOrdered .t5 s t := by
  unfold execBx at h
  dsimp only at h
  split at h
  · exact branchOp_ordered (by decide) hT h
  · cases h
    exact ordered_of_refillArm (by decide) (psrT_setPsrT false s.cpsr) rfl (prefetch_slot_two s .t5)

theorem execStrSp_ordered {imm8 : BitVec 8} (hT : psrT s.cpsr = true) (h : execStrSp rd imm8 s = .next t) :
    HandlerOrdered .t11 s t := by
  cases h
  exact ordered_of_last_prefetch hT (frame_store s (addrSp s imm8) .word _ .nonseq) rfl rfl rfl

theorem execLdrSp_ordered {imm8 : BitVec 8} (hT : psrT s.cpsr = true) (h : execLdrSp rd imm8 s = .next t) :
    HandlerOrdered .t11 s t := by
  cases h
  exact ordered_of_last_prefetch hT (frame_loadReg s (low rd) (addrSp s imm8) .word .nonseq .rotate) rfl rfl
    (reg_setReg_of_ne _ _ (pc_ne_low rd))

theorem execPush_ordered {lr : Bool} {rlist : BitVec 8} (hT : psrT s.cpsr = true) (h : execPush lr rlist s = .next t) :
    HandlerOrdered .t14 s t := by
  have hadv := execPush_advances h
  unfold execPush at h
  split at h
  · cases h
  · cases h
    exact ordered_of_advances (by decide) hT
      (frame_trans (frame_trans (frame_trans (frame_prefetch s .t14) (frame_setReg _ _ _))
        (storeWords_rest _ _ _ _).1) (frame_advance _)) List.not_mem_nil hadv
      (noOpcodeRead_append (noOpcodeRead_storeEvents _ _ _) noOpcodeRead_nil)

theorem execStmia_ordered {rb : LowReg} {rlist : BitVec 8} (hT : psrT s.cpsr = true)
    (h : execStmia rb rlist s = .next t) : HandlerOrdered .t15 s t := by
  have hadv := execStmia_advances h
  unfold execStmia at h
  split at h
  · cases h
  · cases h
    exact ordered_of_advances (by decide) hT
      (frame_trans (frame_trans (frame_trans (frame_prefetch s .t15) (storeWords_rest _ _ _ _).1)
        (frame_setReg _ _ _)) (frame_advance _)) List.not_mem_nil hadv
      (noOpcodeRead_append (noOpcodeRead_append (noOpcodeRead_storeEvents _ _ _) noOpcodeRead_nil) noOpcodeRead_nil)

theorem execPop_ordered {pc : Bool} {rlist : BitVec 8} (hT : psrT s.cpsr = true) (h : execPop pc rlist s = .next t) :
    HandlerOrdered .t14 s t := by
  unfold execPop at h
  split at h
  · cases h
  · obtain ⟨hframe, hpipe, -, -⟩ := loadWords_spec (listRegs rlist) (s.reg spReg) .nonseq (s.prefetch .t14)
      (listRegs_nodup rlist)
    have hloaded := frame_trans (frame_prefetch s .t14) hframe
    have hreads := noOpcodeRead_loadEvents (s.reg spReg) .nonseq (listRegs rlist).length
    dsimp only at h
    split at h
    · cases h
      refine ordered_of_refill (by decide) hT (frame_trans (frame_trans hloaded (frame_emit _ _)) (frame_setReg _ _ _)) ?_
        (noOpcodeRead_append (noOpcodeRead_append hreads (noOpcodeRead_cons rfl noOpcodeRead_nil)) noOpcodeRead_nil)
      rw [pipe_setReg, pipe_emit, hpipe, prefetch_slot_two]
    · cases h
      exact ordered_of_advances (by decide) hT (frame_trans (frame_trans hloaded (frame_setReg _ _ _)) (frame_advance _))
        (by decide) (advances_of_pipe .t14 hpipe ((reg_setReg_of_ne _ _ (by decide)).trans
          (hframe.otherRegs pcReg (pc_not_mem_low _))))
        (noOpcodeRead_append (noOpcodeRead_append hreads noOpcodeRead_nil) noOpcodeRead_nil)

theorem execLdmia_ordered {rb : LowReg} {rlist : BitVec 8} (hT : psrT s.cpsr = true)
    (h : execLdmia rb rlist s = .next t) : HandlerOrdered .t15 s t := by
  have hadv := execLdmia_advances h
  unfold execLdmia at h
  split at h
  · cases h
  · obtain ⟨hframe, -, -, -⟩ := loadWords_spec (listRegs rlist) (s.reg (low rb)) .nonseq (s.prefetch .t15)
      (listRegs_nodup rlist)
    have hloaded := frame_trans (frame_prefetch s .t15) hframe
    have hreads := noOpcodeRead_loadEvents (s.reg (low rb)) .nonseq (listRegs rlist).length
    dsimp only at h
    split at h
    · cases h
      exact ordered_of_advances (by decide) hT (frame_trans hloaded (frame_advance _)) (by decide) hadv
        (noOpcodeRead_append hreads noOpcodeRead_nil)
    · cases h
      exact ordered_of_advances (by decide) hT (frame_trans (frame_trans hloaded (frame_setReg _ _ _)) (frame_advance _))
        (by decide) hadv (noOpcodeRead_append (noOpcodeRead_append hreads noOpcodeRead_nil) noOpcodeRead_nil)

theorem execBlLo_ordered {imm11 : BitVec 11} (hT : psrT s.cpsr = true) (h : execBlLo imm11 s = .next t) :
    HandlerOrdered .t19 s t := by
  cases h
  exact ordered_of_refill (by decide) hT (frame_trans (frame_prefetch s .t19) (frame_setReg _ _ _))
    (prefetch_slot_two s .t19) noOpcodeRead_nil

/-- The mode switch of an SWI touches neither the pipeline nor the bus, and the handler starts in ARM state. -/
theorem execSwi_ordered {c : BitVec 8} (h : execSwi c s = .next t) : HandlerOrdered .t17 s t := by
  unfold execSwi enterException andThen at h
  split at h
  · next u hswitch =>
    cases h
    obtain ⟨-, -, hpipe, -, -, htrace, -, -⟩ := switchMode_rest hswitch
    exact ordered_of_refillArm (by decide) (psrT_setPsrT false _) htrace (by
      change u.pipe.opcode.get 2 = _
      rw [hpipe, prefetch_slot_two])
  · cases h
  · cases h

end

/-! ## Every instruction -/

theorem exec_ordered {i : Instr} {s t : State} (hT : psrT s.cpsr = true) (h : exec i s = .next t) :
    ∃ f, formatOf i = some f ∧ HandlerOrdered f s t := by
  cases i
  case reserved => cases h
  all_goals refine ⟨_, rfl, ?_⟩
  case addReg | subReg | addImm3 | subImm3 | addImm8 | subImm8 | adcAlu | sbcAlu | negAlu =>
    exact ordered_of_quiet (by decide) hT (arithOp_quiet h) (by decide)
  case cmpImm8 | cmpAlu | cmnAlu | cmpHi => exact ordered_of_quiet (by decide) hT (compareOp_quiet h) (by decide)
  case lslImm | lsrImm | asrImm | lslAlu | lsrAlu | asrAlu | rorAlu =>
    exact ordered_of_quiet (by decide) hT (shiftOp_quiet h) (by decide)
  case movImm8 | andAlu | eorAlu | orrAlu | bicAlu | mvnAlu =>
    exact ordered_of_quiet (by decide) hT (logicOp_quiet h) (by decide)
  case tstAlu => exact ordered_of_quiet (by decide) hT (testOp_quiet h) (by decide)
  case addPc | addSp => exact ordered_of_quiet (by decide) hT (moveOp_quiet (low_ne_pc _) h) (by decide)
  case incSp | decSp | blHi => exact ordered_of_quiet (by decide) hT (moveOp_quiet (by decide) h) (by decide)
  case mulAlu => exact execMulAlu_ordered hT h
  case addHi | movHi => exact moveHiOp_ordered hT h
  case bx rs h1 d => exact execBx_ordered (h1 := h1) (d := d) hT h
  case ldrPc | ldrRo | ldrbRo | ldsbRo | ldrhRo | ldshRo => exact loadInternalOp_ordered (by decide) hT rfl h
  case ldrImm | ldrbImm | ldrhImm => exact loadOp_ordered (by decide) hT rfl h
  case strRo | strbRo | strhRo | strImm | strbImm | strhImm => exact storeOp_ordered (by decide) hT h
  case strSp => exact execStrSp_ordered hT h
  case ldrSp => exact execLdrSp_ordered hT h
  case push => exact execPush_ordered hT h
  case pop => exact execPop_ordered hT h
  case stmia => exact execStmia_ordered hT h
  case ldmia => exact execLdmia_ordered hT h
  case beq | bne | bcs | bcc | bmi | bpl | bvs | bvc | bhi | bls | bge | blt | bgt | ble =>
    exact condBranchOp_ordered hT h
  case bal imm8 => exact condBranchOp_ordered (c := .al) (imm8 := imm8) hT h
  case swi c => exact execSwi_ordered (c := c) h
  case b => exact branchOp_ordered (by decide) hT h
  case blLo => exact execBlLo_ordered hT h

/-- Settles O14, from the order and the ending of every instruction's shape. -/
theorem handlerOrder : Obligations.HandlerOrder := by
  intro i s t hT h
  obtain ⟨f, hf, data, ending, hordered⟩ := exec_ordered hT h
  exact ⟨f, data, ending, hf, hordered⟩

end Sys2Proof.Machine
end

section
/-! PROOFS. THUMB.1 to THUMB.3 (41_thumb01_03_shift_addsub_imm.md R150): each instruction is one of the shapes of
Machine/Shapes.lean, so its encoding and its effect are the encoder's round trip and the shape's own law. -/

namespace Sys2Proof.Machine

/-- The words of a layout encode the well-formed instruction they are written for (30_encoding.md R92). -/
theorem encodes_of_encodeOp {i : Instr} {op : Opcode} (hwf : i.wellFormed = true) (h : encodeOp i = op) :
    Encodes op i := ⟨decodeOp_of_encodeOp hwf h, h⟩

/-! ## An instruction that is one of the shapes -/

section
variable {i : Instr} {f : ThumbFormat} {rd : LowReg} {s : State}

theorem exec_of_arithOp {r : Arith} (h : exec i s = arithOp f rd r s) :
    ∃ t r', exec i s = .next t ∧ r' = r ∧ t.reg (low rd) = r'.value ∧ SetsNZ r'.value t ∧ psrC t.cpsr = r'.carry ∧
      psrV t.cpsr = r'.overflow ∧ Quiet f [low rd] [bitN, bitZ, bitC, bitV] s t := by
  obtain ⟨t, hnext, heffect⟩ := arithOp_spec f rd r s
  exact ⟨t, r, h.trans hnext, rfl, heffect⟩

theorem exec_of_compareOp {r : Arith} (h : exec i s = compareOp f r s) :
    ∃ t r', exec i s = .next t ∧ r' = r ∧ SetsNZ r'.value t ∧ psrC t.cpsr = r'.carry ∧ psrV t.cpsr = r'.overflow ∧
      Quiet f [] [bitN, bitZ, bitC, bitV] s t := by
  obtain ⟨t, hnext, heffect⟩ := compareOp_spec f r s
  exact ⟨t, r, h.trans hnext, rfl, heffect⟩

theorem exec_of_shiftOp {r : Shifted} (h : exec i s = shiftOp f rd r s) :
    ∃ t r', exec i s = .next t ∧ r' = r ∧ t.reg (low rd) = r'.value ∧ SetsNZ r'.value t ∧ psrC t.cpsr = r'.carry ∧
      Quiet f [low rd] [bitN, bitZ, bitC] s t := by
  obtain ⟨t, hnext, heffect⟩ := shiftOp_spec f rd r s
  exact ⟨t, r, h.trans hnext, rfl, heffect⟩

end

/-! ## A zero-extended immediate as a result -/

theorem bit31_zext {n : Nat} (imm : BitVec n) (hn : n ≤ 31) : (zext imm).getLsbD 31 = false := by
  rw [zext, BitVec.getLsbD_setWidth, BitVec.getLsbD_of_ge imm 31 hn, Bool.and_false]

theorem zext_eq_zero_iff {n : Nat} (imm : BitVec n) (hn : n ≤ 32) : zext imm = 0 ↔ imm = 0 := by
  have hvalue : (zext imm).toNat = imm.toNat := BitVec.toNat_setWidth_of_le hn
  rw [BitVec.toNat_eq, BitVec.toNat_eq, hvalue]
  rfl

/-- MOV's flags (R158): N is clear, and Z says whether the immediate is 0. -/
theorem flags_of_setsNZ_zext {n : Nat} {imm : BitVec n} {t : State} (hn : n ≤ 31) (h : SetsNZ (zext imm) t) :
    psrN t.cpsr = false ∧ (psrZ t.cpsr = true ↔ imm = 0) := by
  obtain ⟨hN, hZ⟩ := h
  exact ⟨hN.trans (bit31_zext imm hn), by rw [hZ, decide_eq_true_iff, zext_eq_zero_iff imm (by omega)]⟩

/-! ## The three formats -/

/-- Settles O28: the three are the shift shape on the immediate shifter's answer. -/
theorem shiftByImmediate : Obligations.ShiftByImmediate := by
  intro rd rs imm5 s
  refine ⟨⟨?_, ?lsl⟩, ⟨?_, ?lsr⟩, ⟨?_, ?asr⟩⟩
  case lsl | lsr | asr => exact exec_of_shiftOp rfl
  all_goals exact encodes_of_encodeOp rfl rfl

/-- Settles O29: the four are the arithmetic shape on the adder's answer, the operands read before Rd is written. -/
theorem addSubtract : Obligations.AddSubtract := by
  intro rd rs rn imm3 s
  refine ⟨⟨?_, ?addReg⟩, ⟨?_, ?subReg⟩, ⟨?_, ?addImm⟩, ⟨?_, ?subImm⟩⟩
  case addReg | subReg | addImm | subImm => exact exec_of_arithOp rfl
  all_goals exact encodes_of_encodeOp rfl rfl

/-- Settles O30: MOV is the logic shape, CMP the compare shape, ADD and SUB the arithmetic shape. -/
theorem immediateOperations : Obligations.ImmediateOperations := by
  intro rd imm8 s
  refine ⟨⟨?_, ?mov⟩, ⟨?_, ?cmp⟩, ⟨?_, ?add⟩, ⟨?_, ?sub⟩⟩
  case mov =>
    obtain ⟨t, hnext, hvalue, hflags, hquiet⟩ := logicOp_spec .t3 rd (zext imm8) s
    obtain ⟨hN, hZ⟩ := flags_of_setsNZ_zext (by decide) hflags
    exact ⟨t, hnext, hvalue, hN, hZ, hquiet⟩
  case cmp => exact exec_of_compareOp rfl
  case add | sub => exact exec_of_arithOp rfl
  all_goals exact encodes_of_encodeOp rfl rfl

end Sys2Proof.Machine
end

section
/-! PROOFS. THUMB.4 (42_thumb04_alu.md R170): each instruction but MUL is one of the shapes of Machine/Shapes.lean; MUL
has a law of its own, for the internal cycles between its flags and the advance. -/

namespace Sys2Proof.Machine

/-! ## An instruction that writes N and Z only -/

section
variable {i : Instr} {f : ThumbFormat} {rd : LowReg} {s : State} {r : Word}

theorem exec_of_logicOp (h : exec i s = logicOp f rd r s) :
    ∃ t r', exec i s = .next t ∧ r' = r ∧ t.reg (low rd) = r' ∧ SetsNZ r' t ∧ Quiet f [low rd] [bitN, bitZ] s t := by
  obtain ⟨t, hnext, heffect⟩ := logicOp_spec f rd r s
  exact ⟨t, r, h.trans hnext, rfl, heffect⟩

theorem exec_of_testOp (h : exec i s = testOp f r s) :
    ∃ t r', exec i s = .next t ∧ r' = r ∧ SetsNZ r' t ∧ Quiet f [] [bitN, bitZ] s t := by
  obtain ⟨t, hnext, heffect⟩ := testOp_spec f r s
  exact ⟨t, r, h.trans hnext, rfl, heffect⟩

end

/-! ## MUL -/

/-- The low word of a product does not depend on the reading of its factors as unsigned or signed (R184). -/
theorem ofNat_mul_toNat_eq_ofInt_mul_toInt {n : Nat} (a b : BitVec n) :
    BitVec.ofNat n (a.toNat * b.toNat) = BitVec.ofInt n (a.toInt * b.toInt) :=
  calc BitVec.ofNat n (a.toNat * b.toNat)
    _ = a * b := by rw [BitVec.ofNat_mul, BitVec.ofNat_toNat, BitVec.ofNat_toNat, BitVec.setWidth_eq, BitVec.setWidth_eq]
    _ = BitVec.ofInt n (a.toInt * b.toInt) := by rw [BitVec.ofInt_mul, BitVec.ofInt_toInt, BitVec.ofInt_toInt]

theorem execMulAlu_spec (rd rs : LowReg) (s : State) :
    ∃ t r, execMulAlu rd rs s = .next t ∧ t.reg (low rd) = r ∧
      r = BitVec.ofNat 32 ((s.reg (low rd)).toNat * (s.reg (low rs)).toNat) ∧ SetsNZ r t ∧ psrC t.cpsr = false ∧
      Frame [pcReg, low rd] [bitN, bitZ, bitC]
        [prefetchEvent .t4 s, .internal (Config.mulCycles (s.reg (low rd)) (s.reg (low rs)))] s t ∧
      SameMemory s t ∧ Advances s s t := by
  refine ⟨_, _, rfl, ?value, rfl, ⟨psrN_putNZC _ _ _, psrZ_putNZC _ _ _⟩, psrC_putNZC _ _ _, ?frame,
    sameMemory_of rfl, advances_of_pipe .t4 rfl (reg_setReg_of_ne _ _ (pc_ne_low rd))⟩
  case value =>
    rw [reg_advance, reg_setReg_of_ne _ _ (low_ne_pc rd)]
    exact reg_setReg_same _ _ _
  case frame =>
    refine frame_mono (frame_trans (frame_trans (frame_trans (frame_trans (frame_prefetch s .t4) (frame_setReg _ _ _))
      (frame_setCpsr _ (putNZC_others _ s.cpsr false))) (frame_emit _ _)) (frame_advance _)) ?_ (fun _ hk => hk) rfl
    exact fun _ hr => (List.Perm.swap pcReg (low rd) []).mem_iff.mp hr

/-! ## The format -/

/-- Settles O31: five are the logic shape on the bitwise result, TST is the test shape. -/
theorem aluLogical : Obligations.AluLogical := by
  intro rd rs s
  refine ⟨⟨?_, ?and⟩, ⟨?_, ?eor⟩, ⟨?_, ?orr⟩, ⟨?_, ?bic⟩, ⟨?_, ?mvn⟩, ⟨?_, ?tst⟩⟩
  case and | eor | orr | bic | mvn => exact exec_of_logicOp rfl
  case tst => exact exec_of_testOp rfl
  all_goals exact encodes_of_encodeOp rfl rfl

/-- Settles O32: the four are the shift shape on the register shifter's answer for the low byte of Rs. -/
theorem aluShifts : Obligations.AluShifts := by
  intro rd rs s
  refine ⟨⟨?_, ?lsl⟩, ⟨?_, ?lsr⟩, ⟨?_, ?asr⟩, ⟨?_, ?ror⟩⟩
  case lsl | lsr | asr | ror => exact exec_of_shiftOp rfl
  all_goals exact encodes_of_encodeOp rfl rfl

/-- Settles O33: ADC, SBC and NEG are the arithmetic shape, CMP and CMN the compare shape, each on its adder's answer. -/
theorem aluArithmetic : Obligations.AluArithmetic := by
  intro rd rs s
  refine ⟨⟨?_, ?adc⟩, ⟨?_, ?sbc⟩, ⟨?_, ?neg⟩, ⟨?_, ?cmp⟩, ⟨?_, ?cmn⟩⟩
  case adc | sbc | neg => exact exec_of_arithOp rfl
  case cmp | cmn => exact exec_of_compareOp rfl
  all_goals exact encodes_of_encodeOp rfl rfl

/-- Settles O34, from MUL's law; the signed product has the same low word as the unsigned one. -/
theorem mulLowWord : Obligations.MulLowWord := by
  intro rd rs s
  obtain ⟨t, r, hnext, hreg, hvalue, heffect⟩ := execMulAlu_spec rd rs s
  exact ⟨encodes_of_encodeOp rfl rfl, t, _, r, hnext, hreg, hvalue,
    hvalue.trans (ofNat_mul_toNat_eq_ofInt_mul_toInt _ _), heffect⟩

end Sys2Proof.Machine
end

section
/-! PROOFS. THUMB.5 (43_thumb05_hireg_bx.md R200): a write to R15, and a BX that stays in THUMB state, are the branch
shape at the value with bit 0 cleared; a BX into ARM state has a law of its own, for the T bit it clears between the
prefetch and the refill. -/

namespace Sys2Proof.Machine

/-! ## The branch shape -/

theorem exec_of_branchOp {i : Instr} {f : ThumbFormat} {target : Word} {s : State}
    (h : exec i s = branchOp f target s) :
    ∃ t, exec i s = .next t ∧ RefillsThumb target (deadSlot s) (s.after [prefetchEvent f s]) t ∧ SameMemory s t ∧
      Frame [pcReg] [] (prefetchEvent f s :: refillThumbEvents target) s t := by
  obtain ⟨t, hnext, heffect⟩ := branchOp_spec f target s
  exact ⟨t, h.trans hnext, heffect⟩

/-! ## A value written to any of R0 to R15 -/

theorem moveHiOp_pc (v : Word) (s : State) : moveHiOp pcReg v s = branchOp .t5 (clearBit0 v) s := if_pos rfl

theorem moveHiOp_of_ne {rd : Reg} (hrd : rd ≠ pcReg) (v : Word) (s : State) : moveHiOp rd v s = moveOp .t5 rd v s :=
  if_neg hrd

/-- A destination other than R15 gets the value, and the PC advances. -/
theorem exec_of_moveHiOp {i : Instr} {rd : Reg} {v : Word} {s : State} (hrd : rd ≠ pcReg)
    (h : exec i s = moveHiOp rd v s) :
    ∃ t, exec i s = .next t ∧ t.reg rd = v ∧ Quiet .t5 [rd] [] s t := by
  obtain ⟨t, hnext, hreg, -, hquiet⟩ := moveOp_spec .t5 rd v s hrd
  exact ⟨t, h.trans ((moveHiOp_of_ne hrd v s).trans hnext), hreg, hquiet⟩

/-! ## BX -/

theorem setPsrT_others (b : Bool) (p : Word) : ∀ k, k ∉ [bitT] → (setPsrT b p).getLsbD k = p.getLsbD k := by
  intro k hk
  rw [setPsrT, bit_setBit _ _ _ (by decide), if_neg (List.ne_of_not_mem_cons hk)]

section
variable {rs : Reg} (h1 : BitVec 1) (rdBits : BitVec 3) {s : State}

theorem execBx_of_bit0_set (h : (hiOperand s rs).getLsbD 0 = true) :
    execBx rs h1 rdBits s = branchOp .t5 (clearBit0 (hiOperand s rs)) s := if_pos h

theorem execBx_of_bit0_clear (h : (hiOperand s rs).getLsbD 0 = false) :
    execBx rs h1 rdBits s =
      .next (((s.prefetch .t5).setCpsr (setPsrT false s.cpsr)).jumpArm (clearBits10 (hiOperand s rs))) :=
  if_neg (Bool.eq_false_iff.mp h)

/-- The fetches of the ARM refill follow the prefetch, and T is the one status bit that changes (R204). -/
theorem execBx_arm_spec (h : (hiOperand s rs).getLsbD 0 = false) :
    ∃ t, execBx rs h1 rdBits s = .next t ∧ psrT t.cpsr = false ∧
      RefillsArm (clearBits10 (hiOperand s rs)) (deadSlot s) (s.after [prefetchEvent .t5 s]) t ∧ SameMemory s t ∧
      Frame [pcReg] [bitT] (prefetchEvent .t5 s :: refillArmEvents (clearBits10 (hiOperand s rs))) s t :=
  have hframe := frame_trans (frame_prefetch s .t5) (frame_setCpsr (s.prefetch .t5) (setPsrT_others false s.cpsr))
  ⟨_, execBx_of_bit0_clear h1 rdBits h, psrT_setPsrT false s.cpsr, refillsArm_of _ (prefetch_slot_two s .t5) rfl rfl rfl,
    sameMemory_of rfl, frame_trans hframe (frame_jumpArm _ _)⟩

end

/-! ## The format -/

/-- Settles O35: ADD and MOV are the THUMB.5 write of the sum and of the operand, a branch if Rd is R15. -/
theorem highAddMove : Obligations.HighAddMove := by
  rintro rd rs s b rfl
  refine ⟨encodes_of_encodeOp rfl rfl, encodes_of_encodeOp rfl rfl, fun hrd => ⟨?add, ?mov⟩, ?pc⟩
  case add | mov => exact exec_of_moveHiOp hrd rfl
  case pc =>
    rintro rfl target
    constructor <;> rintro rfl
    · exact exec_of_branchOp (moveHiOp_pc (s.reg pcReg + hiOperand s rs) s)
    · exact exec_of_branchOp (moveHiOp_pc (hiOperand s rs) s)

/-- Settles O36: CMP is the compare shape on the subtraction's answer, whichever registers it names. -/
theorem highCompare : Obligations.HighCompare := by
  intro rd rs s
  exact ⟨encodes_of_encodeOp rfl rfl, exec_of_compareOp rfl⟩

/-- Settles O37: with bit 0 set BX is the branch shape, which writes no status bit; with it clear, by its ARM law. -/
theorem branchExchange : Obligations.BranchExchange := by
  rintro rs h1 rdBits s b rfl
  refine ⟨encodes_of_encodeOp rfl rfl, fun hset => ?thumb, fun hclear => ?arm⟩
  case thumb => exact exec_of_branchOp (execBx_of_bit0_set h1 rdBits hset)
  case arm => exact execBx_arm_spec h1 rdBits hclear

end Sys2Proof.Machine
end

section
/-! PROOFS. THUMB.6 to THUMB.11 (44_thumb06_11_load_store.md R210): the formats up to THUMB.10 are the load and store
shapes of Machine/Shapes.lean; THUMB.11, whose data access precedes the prefetch, has laws of its own. -/

namespace Sys2Proof.Machine

/-! ## The address of THUMB.6 (R211) -/

theorem clearBit1_of_even {a : Word} (h : a.getLsbD 0 = false) : clearBit1 a = clearBits10 a :=
  calc clearBit1 a
    _ = clearBit1 (clearBit0 a) := by rw [clearBit0_of_even h]
    _ = clearBits10 a := BitVec.and_assoc a 0xFFFFFFFE 0xFFFFFFFD

theorem aligned_words {n : Nat} (imm : BitVec n) : (words imm).extractLsb' 0 2 = 0 := by
  rw [aligned_iff, words, BitVec.toNat_shiftLeft, Nat.shiftLeft_eq]
  omega

theorem aligned_add {a b : Word} (ha : a.extractLsb' 0 2 = 0) (hb : b.extractLsb' 0 2 = 0) :
    (a + b).extractLsb' 0 2 = 0 := by
  rw [aligned_iff] at ha hb ⊢
  rw [BitVec.toNat_add]
  omega

theorem aligned_addrPc {s : State} (imm8 : BitVec 8) (h : (s.reg pcReg).getLsbD 0 = false) :
    (addrPc s imm8).extractLsb' 0 2 = 0 := by
  rw [addrPc, clearBit1_of_even h]
  exact aligned_add (aligned_clearBits10 _) (aligned_words imm8)

/-- At a word-aligned address ROTATE rotates nothing (20_memory.md R69). -/
theorem loadWord_rotate_of_aligned (s : State) {a : Word} (h : a.extractLsb' 0 2 = 0) :
    s.load a .word .rotate = s.load a .word .plain := by
  change (s.busWord a).rotateRight (8 * (a.extractLsb' 0 2).toNat) = s.busWord a
  rw [h]
  simp [BitVec.rotateRight_def]

/-! ## THUMB.11: a data access, then the prefetch and the advance (R210(b)) -/

section
variable {b s u : State} {regs : List Reg} {e : BusEvent} (haccess : Frame regs [] [e] s u) (hpc : pcReg ∉ regs)
  (f : ThumbFormat)
include haccess hpc

theorem frame_prefetch_last : Frame (pcReg :: regs) [] [e, prefetchEvent f s] s (u.prefetch f).advance := by
  have hevent : prefetchEvent f u = prefetchEvent f s := by
    rw [prefetchEvent, haccess.otherRegs pcReg hpc, prefetchEvent]
  refine frame_mono (frame_trans (frame_trans haccess (frame_prefetch u f)) (frame_advance _)) ?_ (fun _ hk => hk) ?_
  · simp [or_comm]
  · rw [hevent]
    rfl

/-- The prefetch may be read off any state whose bus answers it alike. -/
theorem advances_prefetch_last (hpipe : u.pipe = s.pipe)
    (hfetch : fetchedHalf u (s.reg pcReg) = fetchedHalf b (s.reg pcReg)) : Advances b s (u.prefetch f).advance := by
  have hpcKept := haccess.otherRegs pcReg hpc
  exact advances_of (by rw [index_prefetch, hpipe]) (fun j => by rw [prefetch_slot, hpipe, hpcKept, hfetch]) hpcKept

end

theorem execStrSp_spec (rd : LowReg) (imm8 : BitVec 8) (s : State) (hm : s.mem.wf = true) :
    ∃ t, execStrSp rd imm8 s = .next t ∧ Stored (addrSp s imm8) .word (s.reg (low rd)) s t ∧
      Frame [pcReg] [] [.write (addrSp s imm8) .word (s.reg (low rd)) .nonseq, prefetchEvent .t11 s] s t ∧
      Advances (s.store (addrSp s imm8) .word (s.reg (low rd)) .nonseq) s t :=
  have hframe := frame_store s (addrSp s imm8) .word (s.reg (low rd)) .nonseq
  have hstored := store_stored s (addrSp s imm8) .word (s.reg (low rd)) .nonseq hm
  ⟨_, rfl, ⟨hstored.stored, hstored.others⟩, frame_prefetch_last hframe List.not_mem_nil .t11,
    advances_prefetch_last hframe List.not_mem_nil .t11 rfl rfl⟩

theorem execLdrSp_spec (rd : LowReg) (imm8 : BitVec 8) (s : State) :
    ∃ t, execLdrSp rd imm8 s = .next t ∧ t.reg (low rd) = s.load (addrSp s imm8) .word .rotate ∧
      Frame [pcReg, low rd] [] [.read (addrSp s imm8) .word .nonseq .rotate, prefetchEvent .t11 s] s t ∧
      SameMemory s t ∧ Advances (s.after [.read (addrSp s imm8) .word .nonseq .rotate]) s t := by
  have hframe := frame_loadReg s (low rd) (addrSp s imm8) .word .nonseq .rotate
  have hpc : pcReg ∉ [low rd] := pc_not_mem_low [rd]
  refine ⟨_, rfl, ?value, frame_prefetch_last hframe hpc .t11, sameMemory_of rfl,
    advances_prefetch_last hframe hpc .t11 rfl rfl⟩
  rw [reg_advance, reg_setReg_of_ne _ _ (low_ne_pc rd)]
  exact reg_setReg_same _ _ _

/-! ## The formats -/

/-- Settles O38: LDR is the load shape with an internal cycle; an even PC with bit 1 cleared is word-aligned. -/
theorem loadPcRelative : Obligations.LoadPcRelative := by
  intro rd imm8 s
  refine ⟨⟨encodes_of_encodeOp rfl rfl, loadInternalOp_spec .t6 rd (addrPc s imm8) .word .rotate s⟩, ?_⟩
  rintro heven _ rfl
  have haligned := aligned_addrPc imm8 heven
  exact ⟨haligned, fun b => loadWord_rotate_of_aligned b haligned⟩

/-- Settles O39: the five are the load shape with an internal cycle, the address read before Rd is written. -/
theorem loadRegisterOffset : Obligations.LoadRegisterOffset := by
  intro rd rb ro s
  refine ⟨⟨?_, ?ldr⟩, ⟨?_, ?ldrb⟩, ⟨?_, ?ldsb⟩, ⟨?_, ?ldrh⟩, ⟨?_, ?ldsh⟩⟩
  case ldr | ldrb | ldsb | ldrh | ldsh => exact loadInternalOp_spec _ rd (addrReg s rb ro) _ _ s
  all_goals exact encodes_of_encodeOp rfl rfl

/-- Settles O40: the three are the load shape, the offset scaled by the width. -/
theorem loadImmediateOffset : Obligations.LoadImmediateOffset := by
  intro rd rb imm5 s
  refine ⟨⟨?_, ?ldr⟩, ⟨?_, ?ldrb⟩, ⟨?_, ?ldrh⟩⟩
  case ldr => exact loadOp_spec .t9 rd (addrImm s rb (words imm5)) .word .rotate s
  case ldrb => exact loadOp_spec .t9 rd (addrImm s rb (zext imm5)) .byte .plain s
  case ldrh => exact loadOp_spec .t10 rd (addrImm s rb (halves imm5)) .half .rotate s
  all_goals exact encodes_of_encodeOp rfl rfl

/-- Settles O41: the three are the store shape. -/
theorem storeRegisterOffset : Obligations.StoreRegisterOffset := by
  intro rd rb ro s hm
  refine ⟨⟨?_, ?str⟩, ⟨?_, ?strb⟩, ⟨?_, ?strh⟩⟩
  case str | strb | strh => exact storeOp_spec _ (addrReg s rb ro) _ (s.reg (low rd)) s hm
  all_goals exact encodes_of_encodeOp rfl rfl

/-- Settles O42: the three are the store shape, the offset scaled by the width. -/
theorem storeImmediateOffset : Obligations.StoreImmediateOffset := by
  intro rd rb imm5 s hm
  refine ⟨⟨?_, ?str⟩, ⟨?_, ?strb⟩, ⟨?_, ?strh⟩⟩
  case str => exact storeOp_spec .t9 (addrImm s rb (words imm5)) .word (s.reg (low rd)) s hm
  case strb => exact storeOp_spec .t9 (addrImm s rb (zext imm5)) .byte (s.reg (low rd)) s hm
  case strh => exact storeOp_spec .t10 (addrImm s rb (halves imm5)) .half (s.reg (low rd)) s hm
  all_goals exact encodes_of_encodeOp rfl rfl

/-- Settles O43, from the laws of the two instructions. -/
theorem stackRelative : Obligations.StackRelative := by
  rintro rd imm8 s _ rfl hm
  exact ⟨⟨encodes_of_encodeOp rfl rfl, execStrSp_spec rd imm8 s hm⟩,
    ⟨encodes_of_encodeOp rfl rfl, execLdrSp_spec rd imm8 s⟩⟩

end Sys2Proof.Machine
end

section
/-! PROOFS. THUMB.12 and THUMB.13 (45_thumb12_13_address_sp.md R240): the four are the move shape of Machine/Shapes.lean
on a sum or a difference read before the register is written; the PC form's sum is the address of THUMB.6. -/

namespace Sys2Proof.Machine

/-- A move to a register other than R15 gives it the value and writes no flag. -/
theorem exec_of_moveOp {i : Instr} {f : ThumbFormat} {r : Reg} {v : Word} {s : State} (hr : r ≠ pcReg)
    (h : exec i s = moveOp f r v s) :
    ∃ t, exec i s = .next t ∧ t.reg r = v ∧ Quiet f [r] [] s t := by
  obtain ⟨t, hnext, hreg, -, hquiet⟩ := moveOp_spec f r v s hr
  exact ⟨t, h.trans hnext, hreg, hquiet⟩

theorem sp_ne_pc : spReg ≠ pcReg := by decide

/-- Settles O44: the four are the move shape to Rd or SP; an even PC with bit 1 cleared is word-aligned. -/
theorem addressArithmetic : Obligations.AddressArithmetic := by
  intro rd imm8 imm7 s
  refine ⟨⟨?_, ?addPc⟩, ⟨?_, ?addSp⟩, ⟨?_, ?incSp⟩, ⟨?_, ?decSp⟩, ?aligned⟩
  case addPc | addSp => exact exec_of_moveOp (low_ne_pc rd) rfl
  case incSp | decSp => exact exec_of_moveOp sp_ne_pc rfl
  case aligned => exact aligned_addrPc imm8
  all_goals exact encodes_of_encodeOp rfl rfl

end Sys2Proof.Machine
end

section
/-! PROOFS. THUMB.14 and THUMB.15 (46_thumb14_15_multiple.md R250): each instruction stores or loads a run of words in
the order of its list, where a listed register's word has the place of the register's rank. -/

namespace Sys2Proof.Machine

/-! ## Register lists -/

theorem popcount_le (rlist : BitVec 8) : popcount rlist ≤ 8 := List.countP_le_length

theorem emptyList_eq_false {r : Bool} {rlist : BitVec 8} (h : r = true ∨ rlist ≠ 0) : emptyList r rlist = false := by
  obtain rfl | h := h
  · rfl
  · rw [emptyList, beq_false_of_ne h, Bool.and_false]

/-- The tag of a word that follows those of the listed registers. -/
theorem tag_after_listRegs (rlist : BitVec 8) :
    (if (listRegs rlist).isEmpty then SeqTag.nonseq else .seq) = transferTag (popcount rlist) := by
  simp only [transferTag, ← listRegs_length, List.isEmpty_iff, List.length_eq_zero_iff]

/-! ## The words stored -/

theorem pushValues_length (s : State) (lr : Bool) (rlist : BitVec 8) :
    (pushValues s lr rlist).length = popcount rlist + lr.toNat := by
  cases lr <;> simp [pushValues, listRegs_length]

theorem pushValues_rank (s : State) (lr : Bool) {rlist : BitVec 8} {i : LowReg} (hi : rlist.getLsbD i = true) :
    (pushValues s lr rlist)[rank rlist i]? = some (s.reg (low i)) := by
  obtain ⟨hlt, -⟩ := List.getElem?_eq_some_iff.mp (listRegs_rank rlist i hi)
  rw [pushValues, List.getElem?_append_left (by rwa [List.length_map]), List.getElem?_map, listRegs_rank rlist i hi]
  rfl

/-- LR is the last word. -/
theorem pushValues_lr (s : State) (rlist : BitVec 8) :
    (pushValues s true rlist)[popcount rlist]? = some (s.reg lrReg) := by
  rw [pushValues, List.getElem?_append_right] <;> simp [listRegs_length]

theorem stmiaValues_length (s : State) (rb : LowReg) (new : Word) (regs : List LowReg) :
    (stmiaValues s rb new regs).length = regs.length := by
  cases regs <;> simp [stmiaValues]

/-- The base is stored as it was if it comes first in the list, else updated (R254). -/
theorem stmiaValues_get (s : State) {rb i : LowReg} (new : Word) {regs : List LowReg} {k : Nat}
    (h : regs[k]? = some i) :
    (stmiaValues s rb new regs)[k]? = some (if i = rb ∧ k ≠ 0 then new else s.reg (low i)) := by
  cases regs with
  | nil => simp at h
  | cons j rest =>
    cases k with
    | zero =>
      obtain rfl : j = i := by simpa using h
      simp [stmiaValues]
    | succ k =>
      rw [List.getElem?_cons_succ] at h
      simp [stmiaValues, h]

/-- A run of stores that starts from the map and the memory of `s` and leaves the memory of `t`: each word stands at its
address, where that is read-write memory, and has its event; no other byte changes. -/
theorem storeWords_memory {a : Word} {vs : List Word} {n : Nat} {s u t : State} (hlen : vs.length = n) (hn : n ≤ 9)
    (hm : s.mem.wf = true) (hregions : u.regions = s.regions) (hmem : u.mem = s.mem)
    (ht : t.mem = (storeWords a .nonseq vs u).mem) :
    (∀ k v, vs[k]? = some v → (s.kindAt (wordAt a k) = .ram → readWord t.mem (wordAt a k) = v) ∧
      (storeEvents a .nonseq vs)[k]? = some (.write (wordAt a k) .word v (transferTag k))) ∧
    SameOutsideWords a n s t := by
  subst hlen
  obtain ⟨-, -, -, hread, houtside⟩ := storeWords_spec vs a .nonseq u (by rwa [hmem]) (by omega)
  simp only [SameOutsideWords, kindAt_congr hregions, hmem, ← ht] at hread houtside
  refine ⟨fun k v hv => ?_, houtside⟩
  obtain ⟨hk, rfl⟩ := List.getElem?_eq_some_iff.mp hv
  exact ⟨hread k hk, by rw [storeEvents_get, hv]; rfl⟩

/-! ## The words loaded -/

theorem wordReads_succ (base : Word) (n : Nat) :
    wordReads base (n + 1) = wordReads base n ++ [.read (wordAt base n) .word (transferTag n) .plain] := by
  rw [wordReads, List.range_succ, List.map_append]
  rfl

/-- The words of the listed registers, loaded after the prefetch. -/
def State.loadListed (s : State) (f : ThumbFormat) (base : Word) (rlist : BitVec 8) : State :=
  loadWords base .nonseq (listRegs rlist) (s.prefetch f)

/-- What the loads do: each listed register gets the word at its place, the bus having seen the prefetch and the reads
before it. -/
theorem loadListed_spec (s : State) (f : ThumbFormat) (base : Word) (rlist : BitVec 8) :
    Frame (listed rlist) [] (prefetchEvent f s :: wordReads base (popcount rlist)) s (s.loadListed f base rlist) ∧
      (s.loadListed f base rlist).pipe = (s.prefetch f).pipe ∧ (s.loadListed f base rlist).mem = s.mem ∧
      ∀ i : LowReg, rlist.getLsbD i = true → (s.loadListed f base rlist).reg (low i) =
        (s.after (prefetchEvent f s :: wordReads base (rank rlist i))).load (wordAt base (rank rlist i)) .word .plain := by
  obtain ⟨hframe, hpipe, hmem, hvalue⟩ :=
    loadWords_spec (listRegs rlist) base .nonseq (s.prefetch f) (listRegs_nodup rlist)
  simp only [loadEvents_eq_wordReads, listRegs_length] at hframe hvalue
  refine ⟨frame_trans (frame_prefetch s f) hframe, hpipe, hmem, fun i hi => ?_⟩
  obtain ⟨hlt, hget⟩ := List.getElem?_eq_some_iff.mp (listRegs_rank rlist i hi)
  have hword := hvalue (rank rlist i) (listRegs_length rlist ▸ hlt)
  rw [hget] at hword
  exact hword.trans (load_congr (s := s.after (_ :: _)) (t := (s.prefetch f).after _) rfl rfl
    (congrArg (List.filterMap BusEvent.access) (List.append_assoc _ [_] _)) _ _ _)

/-- What is read after the listed words: the bus has seen their reads. -/
theorem load_after_loadListed (s : State) (f : ThumbFormat) (base : Word) (rlist : BitVec 8) (a : Word) (w : Width)
    (e : Widen) : (s.loadListed f base rlist).load a w e =
      (s.after (prefetchEvent f s :: wordReads base (popcount rlist))).load a w e := by
  obtain ⟨hframe, -, hmem, -⟩ := loadListed_spec s f base rlist
  exact load_congr (s := s.after _) hframe.regions hmem (congrArg (List.filterMap BusEvent.access) hframe.trace) a w e

/-! ## The register that is written back -/

theorem reg_advance_of_ne (s : State) {q : Reg} (h : q ≠ pcReg) : s.advance.reg q = s.reg q := reg_setReg_of_ne s _ h

theorem reg_setReg_advance (s : State) {r : Reg} (v : Word) (h : r ≠ pcReg) : (s.setReg r v).advance.reg r = v := by
  rw [reg_advance_of_ne _ h, reg_setReg_same]

/-! ## PUSH (R251) -/

theorem execPush_eq {lr : Bool} {rlist : BitVec 8} (h : lr = true ∨ rlist ≠ 0) (s : State) :
    execPush lr rlist s =
      .next (storeWords (s.reg spReg - wordsSize (popcount rlist + lr.toNat)) .nonseq (pushValues s lr rlist)
        ((s.prefetch .t14).setReg spReg (s.reg spReg - wordsSize (popcount rlist + lr.toNat)))).advance := by
  rw [execPush, emptyList_eq_false h, ← pushValues_length s]
  rfl

/-- Settles O45: the words are a run of stores from the new SP, made after the prefetch and after SP is lowered. -/
theorem pushStores : Obligations.PushStores := by
  rintro lr rlist s n a hm hne hn rfl
  have hexec := execPush_eq hne s
  rw [← hn] at hexec
  have hlen : (pushValues s lr rlist).length = n := (pushValues_length s lr rlist).trans hn.symm
  have hshort : n ≤ 9 := hn ▸ Nat.add_le_add (popcount_le rlist) lr.toNat_le
  obtain ⟨hframe, -⟩ := storeWords_rest (pushValues s lr rlist) (s.reg spReg - wordsSize n) .nonseq
    ((s.prefetch .t14).setReg spReg (s.reg spReg - wordsSize n))
  obtain ⟨hword, houtside⟩ := storeWords_memory (a := s.reg spReg - wordsSize n) (s := s)
    (u := (s.prefetch .t14).setReg spReg (s.reg spReg - wordsSize n)) hlen hshort hm rfl rfl rfl
  refine ⟨encodes_of_encodeOp rfl rfl, _, _, hexec, ?sp, fun i hi => hword _ _ (pushValues_rank s lr hi), ?lr,
    (storeEvents_length _ _ _).trans hlen, houtside, ?frame, execPush_advances hexec⟩
  case sp =>
    rw [reg_advance_of_ne _ sp_ne_pc, hframe.otherRegs _ List.not_mem_nil, reg_setReg_same]
    rfl
  case lr =>
    rintro rfl
    exact hword _ _ (pushValues_lr s rlist)
  case frame =>
    exact frame_mono (frame_trans (frame_trans (frame_trans (frame_prefetch s .t14) (frame_setReg _ spReg _)) hframe)
      (frame_advance _)) (by simp) (by simp) (by simp)

/-! ## POP (R253) -/

theorem execPop_withoutPc {rlist : BitVec 8} (h : rlist ≠ 0) (s : State) :
    execPop false rlist s = .next ((s.loadListed .t14 (s.reg spReg) rlist).setReg spReg
      (wordAt (s.reg spReg) (popcount rlist))).advance := by
  rw [execPop, emptyList_eq_false (.inr h), ← listRegs_length]
  rfl

/-- The state before the refill of POP {rlist, PC}: one more word is read, and SP is raised past it. -/
def State.poppedPc (s : State) (rlist : BitVec 8) : State :=
  ((s.loadListed .t14 (s.reg spReg) rlist).emit (.read (wordAt (s.reg spReg) (popcount rlist)) .word
    (transferTag (popcount rlist)) .plain)).setReg spReg (wordAt (s.reg spReg) (popcount rlist + 1))

/-- The word POP {rlist, PC} reads last, with bit 0 cleared. -/
def popTarget (s : State) (rlist : BitVec 8) : Word :=
  clearBit0 ((s.after (prefetchEvent .t14 s :: wordReads (s.reg spReg) (popcount rlist))).load
    (wordAt (s.reg spReg) (popcount rlist)) .word .plain)

theorem execPop_withPc (rlist : BitVec 8) (s : State) :
    execPop true rlist s = .next ((s.poppedPc rlist).jumpThumb (popTarget s rlist)) := by
  have hnext : wordAt (s.reg spReg) (popcount rlist) + 4 = wordAt (s.reg spReg) (popcount rlist + 1) := by
    rw [← wordAt_succ, wordAt, wordAt, add_right_comm]
  rw [State.poppedPc, popTarget, ← load_after_loadListed, ← hnext, ← tag_after_listRegs, ← listRegs_length]
  rfl

theorem frame_poppedPc (s : State) (rlist : BitVec 8) : Frame (listed rlist ++ [spReg]) []
    (prefetchEvent .t14 s :: wordReads (s.reg spReg) (popcount rlist + 1)) s (s.poppedPc rlist) := by
  obtain ⟨hframe, -⟩ := loadListed_spec s .t14 (s.reg spReg) rlist
  refine frame_mono (frame_trans (frame_trans hframe (frame_emit _ _)) (frame_setReg _ spReg _)) (by simp) (by simp) ?_
  rw [wordReads_succ, List.append_nil, List.cons_append]

/-- Settles O46: without the PC the last word is a register's and the PC advances; with it one more word is read, and
the pipeline is refilled there. -/
theorem popLoads : Obligations.PopLoads := by
  rintro pc rlist s _ _ hne rfl rfl
  refine ⟨encodes_of_encodeOp rfl rfl, ?_⟩
  obtain ⟨hframe, hpipe, hmem, hvalue⟩ := loadListed_spec s .t14 (s.reg spReg) rlist
  cases pc with
  | false =>
    refine ⟨_, [], execPop_withoutPc (hne.resolve_left Bool.false_ne_true) s, reg_setReg_advance _ _ sp_ne_pc,
      fun i hi => ?value, ?frame, sameMemory_of hmem, fun _ => ⟨rfl, advances_of_pipe .t14 hpipe ?pc⟩,
      fun h => absurd h Bool.false_ne_true⟩
    case value => rw [reg_advance_of_ne _ (low_ne_pc i), reg_setReg_of_ne _ _ (low_ne_sp i), hvalue i hi]
    case frame =>
      exact frame_mono (frame_trans (frame_trans hframe (frame_setReg _ spReg _)) (frame_advance _))
        (by simp +contextual [or_imp]) (by simp) (by simp)
    case pc => rw [reg_setReg_of_ne _ _ sp_ne_pc.symm, hframe.otherRegs _ (pc_not_mem_low _)]
  | true =>
    have hpopped := frame_poppedPc s rlist
    refine ⟨_, refillThumbEvents (popTarget s rlist), execPop_withPc rlist s, ?sp, fun i hi => ?value, ?frame,
      sameMemory_of hmem, fun h => absurd h.symm Bool.false_ne_true, ?refill⟩
    case sp =>
      rw [reg_jumpThumb, reg_setReg_of_ne _ _ sp_ne_pc]
      exact reg_setReg_same _ _ _
    case value =>
      rw [reg_jumpThumb, reg_setReg_of_ne _ _ (low_ne_pc i), State.poppedPc, reg_setReg_of_ne _ _ (low_ne_sp i),
        reg_emit, hvalue i hi]
    case frame =>
      exact frame_mono (frame_trans hpopped (frame_jumpThumb _ _)) (by simp +contextual [or_imp]) (by simp) rfl
    case refill =>
      rintro - _ rfl
      have hdead : (s.poppedPc rlist).pipe.opcode.get 2 = deadSlot s := by
        rw [State.poppedPc, pipe_setReg, pipe_emit, hpipe, prefetch_slot_two]
      exact ⟨rfl, refillsThumb_of _ hdead hpopped.regions hmem hpopped.trace⟩

/-! ## STMIA (R254) -/

theorem execStmia_eq (rb : LowReg) {rlist : BitVec 8} (h : rlist ≠ 0) (s : State) :
    execStmia rb rlist s = .next ((storeWords (s.reg (low rb)) .nonseq
      (stmiaValues s rb (wordAt (s.reg (low rb)) (popcount rlist)) (listRegs rlist)) (s.prefetch .t15)).setReg (low rb)
        (wordAt (s.reg (low rb)) (popcount rlist))).advance := by
  rw [execStmia, if_neg h, ← listRegs_length]
  rfl

/-- Settles O47: the words are a run of stores from the base, made after the prefetch and before the base is written
back. -/
theorem storeMultiple : Obligations.StoreMultiple := by
  rintro rb rlist s n base hm hne hn hbase
  have hexec := execStmia_eq rb hne s
  rw [← hn, ← hbase] at hexec
  have hlen : (stmiaValues s rb (wordAt base n) (listRegs rlist)).length = n :=
    (stmiaValues_length s rb _ _).trans ((listRegs_length rlist).trans hn.symm)
  have hshort : n ≤ 9 := hn ▸ Nat.le_succ_of_le (popcount_le rlist)
  obtain ⟨hframe, -⟩ :=
    storeWords_rest (stmiaValues s rb (wordAt base n) (listRegs rlist)) base .nonseq (s.prefetch .t15)
  obtain ⟨hword, houtside⟩ := storeWords_memory (a := base) (s := s) (u := s.prefetch .t15) hlen hshort hm rfl rfl rfl
  refine ⟨encodes_of_encodeOp rfl rfl, _, storeEvents base .nonseq _, hexec, reg_setReg_advance _ _ (low_ne_pc rb),
    ?word, (storeEvents_length _ _ _).trans hlen, houtside, ?frame, execStmia_advances hexec⟩
  case word =>
    rintro i _ hi rfl
    exact hword _ _ (stmiaValues_get s _ (listRegs_rank rlist i hi))
  case frame =>
    exact frame_mono (frame_trans (frame_trans (frame_trans (frame_prefetch s .t15) hframe) (frame_setReg _ (low rb) _))
      (frame_advance _)) (by simp [or_comm]) (by simp) (by simp)

/-! ## LDMIA (R255) -/

theorem execLdmia_eq (rb : LowReg) {rlist : BitVec 8} (h : rlist ≠ 0) (s : State) :
    execLdmia rb rlist s =
      if rlist.getLsbD rb then .next (s.loadListed .t15 (s.reg (low rb)) rlist).advance
      else .next ((s.loadListed .t15 (s.reg (low rb)) rlist).setReg (low rb)
        (wordAt (s.reg (low rb)) (popcount rlist))).advance := by
  rw [execLdmia, if_neg h, ← listRegs_length]
  rfl

/-- Settles O48: the base is written back after the loads, and not at all if it is in the list. -/
theorem loadMultiple : Obligations.LoadMultiple := by
  rintro rb rlist s _ _ hne rfl rfl
  refine ⟨encodes_of_encodeOp rfl rfl, ?_⟩
  obtain ⟨hframe, -, hmem, hvalue⟩ := loadListed_spec s .t15 (s.reg (low rb)) rlist
  have hexec := execLdmia_eq rb hne s
  by_cases hb : rlist.getLsbD rb = true
  · rw [if_pos hb] at hexec
    refine ⟨_, hexec, fun i hi => ?value, fun h => absurd (hb.symm.trans h) Bool.false_ne_true.symm, ?frame,
      sameMemory_of hmem, execLdmia_advances hexec⟩
    case value => rw [reg_advance_of_ne _ (low_ne_pc i), hvalue i hi]
    case frame =>
      exact frame_mono (frame_trans hframe (frame_advance _)) (by simp +contextual [or_imp]) (by simp) (by simp)
  · rw [if_neg hb] at hexec
    refine ⟨_, hexec, fun i hi => ?value, fun _ => reg_setReg_advance _ _ (low_ne_pc rb), ?frame, sameMemory_of hmem,
      execLdmia_advances hexec⟩
    case value =>
      have hnotBase : low i ≠ low rb := fun h => hb ((low_inj i rb).mp h ▸ hi)
      rw [reg_advance_of_ne _ (low_ne_pc i), reg_setReg_of_ne _ _ hnotBase, hvalue i hi]
    case frame =>
      exact frame_mono (frame_trans (frame_trans hframe (frame_setReg _ (low rb) _)) (frame_advance _))
        (by simp +contextual [or_imp]) (by simp) (by simp)

end Sys2Proof.Machine
end

section
/-! PROOFS. THUMB.16 to THUMB.19 (47_thumb16_19_branch_swi.md R260 to R272): a taken branch is the branch shape of
Machine/Shapes.lean, the first half of a BL the move shape to LR; the second half has a law of its own, for the LR it
writes between the prefetch and the refill. -/

namespace Sys2Proof.Machine

/-! ## The branches -/

/-- Settles O50: each of the fourteen is the conditional shape on its condition, the branch shape if it passes. -/
theorem conditionalBranch : Obligations.ConditionalBranch := by
  intro imm8 s op i c hmem
  have hshape : Encodes op i ∧ exec i s = condBranchOp c imm8 s := by
    simp only [List.mem_cons, List.not_mem_nil, or_false, Prod.mk.injEq] at hmem
    obtain h | h | h | h | h | h | h | h | h | h | h | h | h | h := hmem
    all_goals
      obtain ⟨rfl, rfl, rfl⟩ := h
      exact ⟨encodes_of_encodeOp rfl rfl, rfl⟩
  obtain ⟨hencodes, hexec⟩ := hshape
  refine ⟨hencodes, fun hpassed target htarget => ?taken, fun hfailed => ?notTaken, bit0_branchTarget s imm8⟩
  case taken =>
    subst htarget
    exact exec_of_branchOp (hexec.trans (condBranchOp_taken c imm8 s hpassed))
  case notTaken => exact ⟨_, hexec.trans (condBranchOp_notTaken c imm8 s hfailed), quiet_none .t16 s⟩

/-- Settles O51: condition 14 passes whatever the flags are. -/
theorem branchAlways8 : Obligations.BranchAlways8 := by
  rintro imm8 s _ rfl
  exact ⟨encodes_of_encodeOp rfl rfl, exec_of_branchOp (condBranchOp_taken .al imm8 s rfl)⟩

/-- Settles O52: B is the branch shape, and a halfword offset keeps bit 0 of the PC. -/
theorem branch : Obligations.Branch := by
  rintro imm11 s _ rfl
  obtain ⟨t, hnext, hrefills, hmem, hframe⟩ := exec_of_branchOp (i := .b imm11) (s := s) rfl
  exact ⟨encodes_of_encodeOp rfl rfl, t, hnext, hrefills, hmem, hframe, bit0_branchTarget s imm11⟩

/-! ## BL -/

theorem lr_ne_pc : lrReg ≠ pcReg := by decide

/-- A sign-extended immediate shifted left is the signed immediate times the power of two. -/
theorem longOffset_eq_ofInt (imm11 : BitVec 11) : longOffset imm11 = BitVec.ofInt 32 (imm11.toInt * 4096) := by
  rw [longOffset, BitVec.shiftLeft_eq_mul_twoPow, BitVec.ofInt_mul, BitVec.signExtend]
  rfl

/-- Settles O53: BL_HI is the move shape to LR. -/
theorem branchLinkFirst : Obligations.BranchLinkFirst := by
  intro imm11 s
  rw [← longOffset_eq_ofInt]
  exact ⟨encodes_of_encodeOp rfl rfl, exec_of_moveOp lr_ne_pc rfl⟩

/-- The second half reads the old LR for its target, then writes the return address (R271). -/
theorem execBlLo_spec (imm11 : BitVec 11) (s : State) :
    ∃ t, execBlLo imm11 s = .next t ∧ t.reg lrReg = (s.reg pcReg - 2) ||| 1 ∧
      RefillsThumb (longTarget s imm11) (deadSlot s) (s.after [prefetchEvent .t19 s]) t ∧ SameMemory s t ∧
      Frame [pcReg, lrReg] [] (prefetchEvent .t19 s :: refillThumbEvents (longTarget s imm11)) s t := by
  refine ⟨_, rfl, ?lr, refillsThumb_of _ (prefetch_slot_two s .t19) rfl rfl rfl, sameMemory_of rfl, ?frame⟩
  case lr => rw [reg_jumpThumb, reg_setReg_of_ne _ _ lr_ne_pc, reg_setReg_same]
  case frame =>
    exact frame_mono (frame_trans (frame_trans (frame_prefetch s .t19) (frame_setReg _ lrReg _)) (frame_jumpThumb _ _))
      (by simp) (by simp) rfl

/-- Settles O54, from the law of BL_LO. -/
theorem branchLinkSecond : Obligations.BranchLinkSecond := by
  rintro imm11 s _ rfl
  exact ⟨encodes_of_encodeOp rfl rfl, execBlLo_spec imm11 s⟩

/-! ## The pair -/

theorem halves_eq_ofInt {n : Nat} (imm : BitVec n) : halves imm = BitVec.ofInt 32 (imm.toNat * 2) := by
  rw [halves, zext, BitVec.shiftLeft_eq_mul_twoPow, BitVec.ofInt_mul, BitVec.ofInt_natCast,
    BitVec.ofNat_toNat]
  rfl

/-- An even 23-bit offset is its upper eleven bits, signed, and its lower eleven, unsigned. -/
theorem toInt_eq_halves {offset : BitVec 23} (heven : offset.getLsbD 0 = false) :
    (offset.extractLsb' 12 11).toInt * 4096 + (offset.extractLsb' 1 11).toNat * 2 = offset.toInt := by
  have hbit : ¬ offset.toNat % 2 = 1 := by
    simpa [BitVec.getLsbD, Nat.testBit_zero] using heven
  have hlt := offset.isLt
  simp only [BitVec.toInt_eq_toNat_cond, BitVec.extractLsb'_toNat, Nat.shiftRight_eq_div_pow]
  split <;> split <;> omega

/-- What the two halves of a BL add to A + 4 is the offset (R272). -/
theorem longOffset_add_halves {offset : BitVec 23} (heven : offset.getLsbD 0 = false) :
    longOffset (offset.extractLsb' 12 11) + halves (offset.extractLsb' 1 11) = offset.signExtend 32 := by
  rw [longOffset_eq_ofInt, halves_eq_ofInt, ← BitVec.ofInt_add, toInt_eq_halves heven, BitVec.signExtend]

/-- No bit outside the list `[]`: the CPSR as a whole. -/
theorem Frame.cpsr_eq {regs : List Reg} {es : List BusEvent} {s t : State} (h : Frame regs [] es s t) :
    t.cpsr = s.cpsr :=
  BitVec.eq_of_getLsbD_eq fun k _ => h.otherBits k List.not_mem_nil

/-- Settles O55: the first half leaves A + 4 plus the upper part in LR, the second adds the lower part, and the sum is
even. -/
theorem branchLinkPair : Obligations.BranchLinkPair := by
  intro offset s t u heven hpc hfirst hsecond
  obtain ⟨t', hfirst', hlr, hquiet⟩ := exec_of_moveOp (i := .blHi (offset.extractLsb' 12 11)) (s := s) lr_ne_pc rfl
  cases hfirst'.symm.trans hfirst
  obtain ⟨u', hsecond', hlink, hrefills, hmem, hframe⟩ := execBlLo_spec (offset.extractLsb' 1 11) t
  cases hsecond'.symm.trans hsecond
  have htarget : longTarget t (offset.extractLsb' 1 11) = s.reg pcReg + offset.signExtend 32 := by
    have hoffset : (offset.signExtend 32).getLsbD 0 = false := by
      rw [BitVec.getLsbD_signExtend, if_pos (by decide), heven, Bool.and_false]
    rw [longTarget, hlr, BitVec.add_assoc, longOffset_add_halves heven, clearBit0_of_even]
    rw [bit0_add, hpc, hoffset]
    rfl
  have hlink' : t.reg pcReg - 2 = s.reg pcReg := by rw [hquiet.advances.pc, BitVec.add_sub_cancel]
  refine ⟨htarget ▸ hrefills, hlink' ▸ hlink, fun r hrpc hrlr => ?_, hframe.cpsr_eq.trans hquiet.frame.cpsr_eq,
    hframe.regions.trans hquiet.frame.regions, fun k => (hmem k).trans (hquiet.memory k)⟩
  rw [hframe.otherRegs r (by simp [hrpc, hrlr]), hquiet.frame.otherRegs r (by simp [hrpc, hrlr])]

end Sys2Proof.Machine
end

section
/-! PROOFS. Taking an exception and returning from one (60_exceptions.md R301, R304, R309): the entry of SWI and of an
interrupt is one shared operation, said once, and a return undoes every entry from a mode of another bank. -/

namespace Sys2Proof.Machine

/-! ## The fields that an entry and a reset write -/

section
variable (b : Bool) (p : Word)

@[simp] theorem psrM_setPsrT : psrM (setPsrT b p) = psrM p := psrM_setBit p b (by decide) (by decide)
@[simp] theorem psrM_setPsrI : psrM (setPsrI b p) = psrM p := psrM_setBit p b (by decide) (by decide)
@[simp] theorem psrM_setPsrF : psrM (setPsrF b p) = psrM p := psrM_setBit p b (by decide) (by decide)
@[simp] theorem psrI_setPsrT : psrI (setPsrT b p) = psrI p := bit_setBit p 7 b (by decide)
@[simp] theorem psrI_setPsrF : psrI (setPsrF b p) = psrI p := bit_setBit p 7 b (by decide)
@[simp] theorem psrI_setPsrI : psrI (setPsrI b p) = b := bit_setBit p 7 b (by decide)
@[simp] theorem psrF_setPsrT : psrF (setPsrT b p) = psrF p := bit_setBit p 6 b (by decide)
@[simp] theorem psrF_setPsrF : psrF (setPsrF b p) = b := bit_setBit p 6 b (by decide)

end

theorem bankOf_of_legalMode {m : BitVec 5} (h : legalMode m = true) : ∃ b, bankOf m = some b := by
  rwa [← bankOf_isSome, Option.isSome_iff_exists] at h

/-! ## Registers seen through the banks -/

/-- A register of the bank in use is the active one (10_state.md R24). -/
theorem bankedReg_current {s : State} {b : Bank} (h : bankOf (psrM s.cpsr) = some b) (i : Reg) :
    s.bankedReg b i = s.reg i := by
  have hfiq : bankOf (psrM s.cpsr) = some .fiq ↔ b = .fiq := by rw [h, Option.some.injEq]
  unfold State.bankedReg
  rw [if_pos h, if_pos hfiq, ite_self, ite_self]

/-- A change of active registers shows in the banks only where the register changed is in use; R13 and R14 of a bank not
in use stand in its slots. -/
theorem bankedReg_of_active {s t : State} (hbank : t.bank = s.bank)
    (hmode : bankOf (psrM t.cpsr) = bankOf (psrM s.cpsr)) {b : Bank} {i : Reg}
    (hreg : t.reg i = s.reg i ∨ i = lrReg ∧ bankOf (psrM s.cpsr) ≠ some b) : t.bankedReg b i = s.bankedReg b i := by
  obtain hreg | ⟨rfl, hunused⟩ := hreg
  · rw [State.bankedReg, State.bankedReg, hmode, hbank, hreg]
  · rw [bankedReg_lr, bankedReg_lr, State.bankedStack, State.bankedStack, hmode, if_neg hunused, if_neg hunused, hbank]

theorem bankedReg_jumpThumb (s : State) (target : Word) (b : Bank) {i : Reg} (hpc : i ≠ pcReg) :
    (s.jumpThumb target).bankedReg b i = s.bankedReg b i :=
  bankedReg_of_active (bank_jumpThumb s target) (by rw [cpsr_jumpThumb])
    (.inl ((frame_jumpThumb s target).otherRegs i (by simpa using hpc)))

/-! ## The bus before a refill -/

/-- What a refill fetches depends on the map, the memory and the accesses of the state before it. -/
theorem RefillsArm.of_bus {target dead : Word} {b b' t : State} (h : RefillsArm target dead b' t)
    (hregions : b'.regions = b.regions) (hmem : b'.mem = b.mem) (htrace : b'.trace = b.trace) :
    RefillsArm target dead b t where
  pc := h.pc
  index := h.index
  first := h.first.trans (load_congr hregions hmem (congrArg (List.filterMap BusEvent.access) htrace) _ _ _)
  second := h.second.trans (load_congr (t := b'.after _) (s := b.after _) hregions hmem
    (by simp only [State.accesses, trace_after, htrace]) _ _ _)
  third := h.third

/-! ## The entry -/

theorem Entered.psrI {mode : Mode} {vector : Word} {s t : State} (h : Entered mode vector s t) :
    psrI t.cpsr = true := by
  rw [h.cpsr, psrI_setPsrT, psrI_setPsrI]

theorem Entered.bankOf_psrM {mode : Mode} {vector : Word} {s t : State} (h : Entered mode vector s t) :
    bankOf (Machine.psrM t.cpsr) = some mode.bank := by
  rw [h.psrM, bankOf_bits]

/-- From `s` to `t` an exception is taken to `mode` at `vector` with the return address `link` (R301). -/
structure EntersHandler (mode : Mode) (vector link : Word) (s t : State) : Prop where
  entered : Entered mode vector s t
  link : t.reg lrReg = link
  spsr : t.spsr = s.spsr.set mode.bank s.cpsr
  refills : RefillsArm vector (s.pipe.opcode.get 2) s t
  irqLine : t.irqLine = s.irqLine
  trace : t.trace = s.trace ++ refillArmEvents vector
  bankedReg : ∀ b i, i ≠ pcReg → (i ≠ lrReg ∨ b ≠ mode.bank) → t.bankedReg b i = s.bankedReg b i

/-- An exception is taken from every legal mode. -/
theorem enterException_spec (mode : Mode) (vector link : Word) {s : State} (h : legalMode (psrM s.cpsr) = true) :
    ∃ t, enterException mode vector link s = .next t ∧ EntersHandler mode vector link s t := by
  obtain ⟨bo, ho⟩ := bankOf_of_legalMode h
  obtain ⟨u, hswitch⟩ : ∃ u, switchMode mode.bits s = .next u := ⟨_, switchMode_next mode.bits s ho (bankOf_bits mode)⟩
  have hnext : enterException mode vector link s = .next (enterHandler mode vector link s.cpsr u) := by
    rw [enterException, hswitch]
    rfl
  have hentered := enterException_entered hnext
  obtain ⟨hcpsr, hspsr, hpipe, hmem, hirq, htrace, hregions, -⟩ := switchMode_rest hswitch
  obtain ⟨hbank', hspsr', -, -, -, hirq', htrace', hrefills', hlr', hreg'⟩ :=
    enterHandler_rest mode vector link s.cpsr u
  have hmode : bankOf (psrM u.cpsr) = some mode.bank := by rw [hcpsr, psrM_setPsrM, bankOf_bits]
  refine ⟨_, hnext, hentered, hlr', by rw [hspsr', hspsr], ?refills, by rw [hirq', hirq], by rw [htrace', htrace],
    fun b i hpc hlr => ?banked⟩
  case refills =>
    rw [hpipe] at hrefills'
    exact hrefills'.of_bus hregions hmem htrace
  case banked =>
    rw [← switchMode_bankedReg ho (bankOf_bits mode) hswitch]
    refine bankedReg_of_active hbank' (hentered.bankOf_psrM.trans hmode.symm) ?_
    by_cases hi : i = lrReg
    · exact .inr ⟨hi, fun hb => hlr.resolve_left (not_not_intro hi) (Option.some.inj (hb.symm.trans hmode))⟩
    · exact .inl (hreg' i hpc hi)

/-- Settles O24, from the law of the entry. -/
theorem exceptionEntry : Obligations.ExceptionEntry := by
  intro s mode vector link hmode hbank
  obtain ⟨t, hnext, h⟩ := enterException_spec mode vector link hmode
  refine ⟨t, hnext, h.link, ?saved, fun b hb => ?others, h.entered.psrM, h.entered.psrI, h.entered.psrT,
    fun k h5 h7 => h.entered.otherBits h5 h7, h.refills, h.entered.memory, h.entered.regions, h.irqLine, h.trace,
    h.bankedReg⟩
  case saved => rw [h.spsr, spsr_get_set _ _ _ _ hbank, if_pos rfl]
  case others => rw [h.spsr, spsr_get_set _ _ _ _ hbank, if_neg hb]

/-! ## The interrupt -/

theorem step_of_irqTaken {s : State} (hT : psrT s.cpsr = true) (hirq : s.irqTaken = true) :
    step s = takeIrq s.sampled := by
  rw [step, if_pos hT, hirq, if_pos rfl]

/-- A step that takes the interrupt enters IRQ mode with the link A + 4 (R304). -/
theorem step_entersHandler {s : State} (hT : psrT s.cpsr = true) (hmode : legalMode (psrM s.cpsr) = true)
    (hirq : s.irqTaken = true) :
    ∃ t, step s = .next t ∧ EntersHandler .irq vectorIrq (s.reg pcReg) s.sampled t := by
  rw [step_of_irqTaken hT hirq]
  exact enterException_spec .irq vectorIrq (s.reg pcReg) (s := s.sampled) hmode

/-- Settles O7: the line is sampled, and IRQ mode entered from the state after that. -/
theorem stepTakesInterrupt : Obligations.StepTakesInterrupt := by
  intro s hT hmode hline hI
  have hirq : s.irqTaken = true := by rw [State.irqTaken, State.irqActive, hline, hI]; rfl
  obtain ⟨t, hnext, h⟩ := step_entersHandler hT hmode hirq
  exact ⟨t, hnext, h.link, h.spsr, h.entered.psrM, h.entered.psrI, h.entered.psrT,
    fun k h5 h7 => h.entered.otherBits h5 h7, h.refills.of_bus rfl rfl rfl, h.entered.memory, h.entered.regions,
    h.irqLine, h.trace, h.bankedReg⟩

/-! ## SWI -/

/-- Settles O25: the entry is made from the state after the prefetch; in an illegal mode its mode switch faults. -/
theorem swiEntersSupervisor : Obligations.SwiEntersSupervisor := by
  intro comment s
  refine ⟨encodes_of_encodeOp rfl rfl, fun hmode => ?legal, fun hmode => ?illegal⟩
  case legal =>
    obtain ⟨t, hnext, h⟩ :=
      enterException_spec .supervisor vectorSwi (s.reg pcReg - 2) (s := s.prefetch .t17) hmode
    have hrefills := h.refills
    rw [prefetch_slot_two] at hrefills
    exact ⟨t, hnext, h.link, h.spsr, h.entered.psrM, h.entered.psrI, h.entered.psrT,
      fun k h5 h7 => h.entered.otherBits h5 h7, hrefills.of_bus rfl rfl rfl, h.entered.memory, h.entered.regions,
      h.irqLine, h.trace.trans (List.append_assoc _ _ _), h.bankedReg⟩
  case illegal =>
    change andThen (switchMode _ (s.prefetch .t17)) _ = _
    rw [switchMode_illegal _ (s.prefetch .t17) (.inl hmode)]
    rfl

/-! ## The return -/

/-- The return to THUMB state (R309): the saved CPSR, no architectural register but the PC changed, and the pipeline
refilled. -/
theorem exceptionReturn_spec (k : Word) {t : State} {b bo : Bank} {saved : Word} (hb : bankOf (psrM t.cpsr) = some b)
    (hsaved : t.spsr.get b = some saved) (ho : bankOf (psrM saved) = some bo) (hT : psrT saved = true) :
    ∃ u, exceptionReturn k t = .next u ∧ u.cpsr = saved ∧
      RefillsThumb (clearBit0 (t.reg lrReg - k)) (t.pipe.opcode.get 2) t u ∧ u.mem = t.mem ∧ u.regions = t.regions ∧
      ∀ b i, i ≠ pcReg → u.bankedReg b i = t.bankedReg b i := by
  obtain ⟨v, hswitch⟩ : ∃ v, switchMode (psrM saved) t = .next v := ⟨_, switchMode_next (psrM saved) t hb ho⟩
  obtain ⟨hcpsr, -, hpipe, hmem, -, htrace, hregions, -⟩ := switchMode_rest hswitch
  have hnext : exceptionReturn k t = .next ((v.setCpsr saved).jumpThumb (clearBit0 (t.reg lrReg - k))) := by
    have hjump : (v.setCpsr saved).jumpByT (t.reg lrReg - k) = _ := if_pos hT
    rw [exceptionReturn, hb, Option.bind_some, hsaved]
    change andThen (switchMode (psrM saved) t) _ = _
    rw [hswitch, ← hjump]
    rfl
  refine ⟨_, hnext, rfl, refillsThumb_of _ (congrArg (·.opcode.get 2) hpipe) hregions hmem htrace, hmem, hregions,
    fun b' i hpc => ?_⟩
  have hmode : bankOf (psrM saved) = bankOf (psrM v.cpsr) := by rw [hcpsr, psrM_setPsrM]
  rw [bankedReg_jumpThumb _ _ _ hpc, bankedReg_setCpsr hmode, switchMode_bankedReg hb ho hswitch]

/-- A return from a handler entered from a THUMB state in a mode of another bank: everything is as before the entry but
the PC, which the link and `k` decide, and R14 of the handler's mode. -/
theorem exceptionReturn_of_entersHandler (k : Word) {mode : Mode} {vector link : Word} {s t : State}
    (h : EntersHandler mode vector link s t) (hspsr : mode.bank ≠ .usr) (hT : psrT s.cpsr = true)
    (hmode : legalMode (psrM s.cpsr) = true) (hother : bankOf (psrM s.cpsr) ≠ some mode.bank) :
    ∃ u, exceptionReturn k t = .next u ∧ u.cpsr = s.cpsr ∧ (∀ r, r ≠ pcReg → u.reg r = s.reg r) ∧
      (∀ b i, i ≠ pcReg → (i ≠ lrReg ∨ b ≠ mode.bank) → u.bankedReg b i = s.bankedReg b i) ∧ u.mem = s.mem ∧
      u.regions = s.regions ∧ RefillsThumb (clearBit0 (link - k)) (s.pipe.opcode.get 2) t u := by
  obtain ⟨bo, ho⟩ := bankOf_of_legalMode hmode
  have hsaved : t.spsr.get mode.bank = some s.cpsr := by rw [h.spsr, spsr_get_set _ _ _ _ hspsr, if_pos rfl]
  obtain ⟨u, hnext, hcpsr, hrefills, hmem, hregions, hbanked⟩ :=
    exceptionReturn_spec k h.entered.bankOf_psrM hsaved ho hT
  rw [h.link, h.refills.third] at hrefills
  have hregs (b : Bank) (i : Reg) (hpc : i ≠ pcReg) (hlr : i ≠ lrReg ∨ b ≠ mode.bank) :
      u.bankedReg b i = s.bankedReg b i := (hbanked b i hpc).trans (h.bankedReg b i hpc hlr)
  refine ⟨u, hnext, hcpsr, fun r hpc => ?_, hregs, hmem.trans h.entered.memory, hregions.trans h.entered.regions,
    hrefills⟩
  have hbo : bo ≠ mode.bank := fun e => hother (ho.trans (congrArg some e))
  rw [← bankedReg_current (hcpsr ▸ ho) r, hregs bo r hpc (.inr hbo), bankedReg_current ho r]

/-! ## The round trips -/

theorem bankOf_ne_svc : ∀ m : BitVec 5, m ≠ 0b10011 → bankOf m ≠ some .svc := by decide

theorem bankOf_ne_irq : ∀ m : BitVec 5, m ≠ 0b10010 → bankOf m ≠ some .irq := by decide

theorem bit0_sub_even {a b : Word} (ha : a.getLsbD 0 = false) (hb : (-b).getLsbD 0 = false) :
    (a - b).getLsbD 0 = false := by
  rw [BitVec.sub_eq_add_neg, bit0_add, ha, hb]
  rfl

/-- Settles O26: the link is A + 2, which is even. -/
theorem swiRoundTrip : Obligations.SwiRoundTrip := by
  intro comment s t hT hmode hother heven hexec
  obtain ⟨t', hnext, h⟩ := enterException_spec .supervisor vectorSwi (s.reg pcReg - 2) (s := s.prefetch .t17) hmode
  cases hnext.symm.trans hexec
  have htarget : s.reg pcReg - 2 - 0 = s.reg pcReg - 2 := BitVec.sub_zero _
  have hreturn := exceptionReturn_of_entersHandler 0 h (by decide) hT hmode (bankOf_ne_svc _ hother)
  rw [htarget, clearBit0_of_even (bit0_sub_even heven rfl), prefetch_slot_two] at hreturn
  exact hreturn

/-- Settles O27: the link is A + 4, so the return with k = 4 refills at A and brings the PC back to A + 4. -/
theorem interruptRoundTrip : Obligations.InterruptRoundTrip := by
  intro s t hT hmode hother heven hirq hstep
  obtain ⟨t', hnext, h⟩ := step_entersHandler hT hmode hirq
  cases hnext.symm.trans hstep
  obtain ⟨u, hreturn, hcpsr, hregs, hbanked, hmem, hregions, hrefills⟩ :=
    exceptionReturn_of_entersHandler 4 h (by decide) hT hmode (bankOf_ne_irq _ hother)
  rw [clearBit0_of_even (bit0_sub_even heven rfl)] at hrefills
  have hpc : u.reg pcReg = s.reg pcReg := by rw [hrefills.pc, BitVec.sub_add_cancel]
  refine ⟨u, hreturn, hcpsr, fun r => ?reg, fun b i hlr => ?banked, hmem, hregions, hrefills⟩
  case reg =>
    by_cases hr : r = pcReg
    · rw [hr, hpc]
    · exact hregs r hr
  case banked =>
    by_cases hi : i = pcReg
    · rw [hi, bankedReg_low u b (.inr rfl), bankedReg_low s b (.inr rfl), hpc]
    · exact hbanked b i hi hlr

end Sys2Proof.Machine
end

section
/-! PROOFS. Where the spec stops (47_thumb16_19_branch_swi.md R275, 46_thumb14_15_multiple.md R252, R256): the reserved
opcodes and the empty register lists, and that every other instruction completes from a legal mode
(70_reset_and_hazards.md R367). -/

namespace Sys2Proof.Machine

/-! ## The reserved opcodes -/

theorem decodeOp_of_isReservedByte {op : Opcode} (h : isReservedByte (op.extractLsb' 8 8) = true) :
    decodeOp op = .reserved op := decodeOp_of_encodeOp h rfl

/-- Only the reserved opcodes decode to a reserved term, which carries the opcode. -/
theorem isReservedByte_of_decodeOp {op op' : Opcode} (h : decodeOp op = .reserved op') :
    isReservedByte (op.extractLsb' 8 8) = true := by
  obtain ⟨hwf, hop⟩ := decodeOp_roundTrip op
  rw [h] at hwf hop
  cases hop
  exact hwf

/-- Settles O49: a reserved term is the meaning of the opcodes it encodes; an empty list is tested before anything
else. -/
theorem unspecifiedOpcodesFault : Obligations.UnspecifiedOpcodesFault := by
  refine ⟨fun op hmem => decodeOp_of_isReservedByte ?_, fun _ _ => rfl, fun _ _ => ⟨rfl, rfl, rfl, rfl⟩⟩
  have hlist : ∀ top : Byte, top.toNat ∈ [0xB1, 0xB2, 0xB3, 0xB6, 0xB7, 0xB8, 0xB9, 0xBA, 0xBB, 0xBE, 0xBF,
      0xE8, 0xE9, 0xEA, 0xEB, 0xEC, 0xED, 0xEE, 0xEF] → isReservedByte top = true := by decide
  exact hlist _ hmem

/-! ## What stops and what completes -/

theorem emptyList_of_not_specified {r : Bool} {rlist : BitVec 8} (h : (r || rlist != 0) = false) :
    emptyList r rlist = true := by
  obtain ⟨rfl, hlist⟩ := Bool.or_eq_false_iff.mp h
  exact beq_iff_eq.mpr (bne_eq_false_iff_eq.mp hlist)

/-- An instruction that the spec gives no effect is a reserved opcode or has an empty register list. -/
theorem exec_of_not_specified {i : Instr} (h : i.specified = false) (s : State) :
    (∃ op, i = .reserved op) ∧ exec i s = .fault .reservedEncoding ∨
      (∀ op, i ≠ .reserved op) ∧ exec i s = .fault .emptyRegisterList := by
  cases i
  case push | pop => exact .inr ⟨nofun, if_pos (emptyList_of_not_specified h)⟩
  case stmia | ldmia => exact .inr ⟨nofun, if_pos (bne_eq_false_iff_eq.mp h)⟩
  case reserved op => exact .inl ⟨⟨op, rfl⟩, rfl⟩
  all_goals cases h

theorem moveHiOp_next (rd : Reg) (v : Word) (s : State) : ∃ t, moveHiOp rd v s = .next t := by
  unfold moveHiOp
  split
  · exact ⟨_, rfl⟩
  · exact ⟨_, rfl⟩

theorem condBranchOp_next (c : Cond) (imm8 : BitVec 8) (s : State) : ∃ t, condBranchOp c imm8 s = .next t := by
  cases h : condPassed s.cpsr c
  · exact ⟨_, condBranchOp_notTaken c imm8 s h⟩
  · exact ⟨_, condBranchOp_taken c imm8 s h⟩

theorem execBx_next (rs : Reg) (h1 : BitVec 1) (rdBits : BitVec 3) (s : State) :
    ∃ t, execBx rs h1 rdBits s = .next t := by
  cases h : (hiOperand s rs).getLsbD 0
  · exact ⟨_, execBx_of_bit0_clear h1 rdBits h⟩
  · exact ⟨_, execBx_of_bit0_set h1 rdBits h⟩

theorem execPop_next {pc : Bool} {rlist : BitVec 8} (h : pc = true ∨ rlist ≠ 0) (s : State) :
    ∃ t, execPop pc rlist s = .next t := by
  cases pc
  · exact ⟨_, execPop_withoutPc (by simpa using h) s⟩
  · exact ⟨_, execPop_withPc rlist s⟩

theorem execLdmia_next (rb : LowReg) {rlist : BitVec 8} (h : rlist ≠ 0) (s : State) :
    ∃ t, execLdmia rb rlist s = .next t := by
  have hexec := execLdmia_eq rb h s
  split at hexec
  · exact ⟨_, hexec⟩
  · exact ⟨_, hexec⟩

theorem nonempty_of_specified {r : Bool} {rlist : BitVec 8} (h : (r || rlist != 0) = true) :
    r = true ∨ rlist ≠ 0 := by
  simpa using h

/-- Every other instruction completes; SWI needs a legal mode. -/
theorem exec_next_of_specified {i : Instr} {s : State} (hmode : legalMode (psrM s.cpsr) = true)
    (h : i.specified = true) : ∃ t, exec i s = .next t := by
  cases i
  case addHi | movHi => exact moveHiOp_next _ _ s
  case bx rs h1 rdBits => exact execBx_next rs h1 rdBits s
  case push lr rlist => exact ⟨_, execPush_eq (nonempty_of_specified h) s⟩
  case pop pc rlist => exact execPop_next (nonempty_of_specified h) s
  case stmia rb rlist => exact ⟨_, execStmia_eq rb (bne_iff_ne.mp h) s⟩
  case ldmia rb rlist => exact execLdmia_next rb (bne_iff_ne.mp h) s
  case beq | bne | bcs | bcc | bmi | bpl | bvs | bvc | bhi | bls | bge | blt | bgt | ble =>
    exact condBranchOp_next _ _ s
  case bal imm8 => exact condBranchOp_next .al imm8 s
  case swi c =>
    obtain ⟨t, hnext, -⟩ := enterException_spec .supervisor vectorSwi (s.reg pcReg - 2) (s := s.prefetch .t17) hmode
    exact ⟨t, hnext⟩
  case reserved => cases h
  all_goals exact ⟨_, rfl⟩

/-! ## The step -/

/-- Settles O9: an interrupt entry completes from a legal mode, and an instruction exactly if the spec gives it an
effect. -/
theorem stepFaultsOnlyWhenUnspecified : Obligations.StepFaultsOnlyWhenUnspecified := by
  intro s hT hmode
  refine ⟨fun h => ?completes, fun hirq hspec => ?faults⟩
  case completes =>
    by_cases hirq : s.irqTaken = true
    · obtain ⟨t, hnext, -⟩ := step_entersHandler hT hmode hirq
      exact ⟨t, hnext⟩
    · rw [CanStep, step_of_not_irqTaken hT (Bool.eq_false_iff.mpr hirq)]
      exact exec_next_of_specified (s := s.sampled) hmode (h.resolve_left hirq)
  case faults =>
    rw [step_of_not_irqTaken hT hirq]
    obtain ⟨⟨op, hop⟩, hfault⟩ | ⟨hne, hfault⟩ := exec_of_not_specified hspec s.sampled
    · exact .inl ⟨isReservedByte_of_decodeOp hop, hfault⟩
    · exact .inr ⟨Bool.eq_false_iff.mpr fun hres => hne _ (decodeOp_of_isReservedByte hres), hfault⟩

end Sys2Proof.Machine
end

section
/-! PROOFS. Reset (70_reset_and_hazards.md R350): the status bits it writes and the refill from address 0. -/

namespace Sys2Proof.Machine

/-- Settles O12: the reset state is a literal; Reset() writes M, I, F and T, then refills in ARM state. -/
theorem resetState : Obligations.ResetState := by
  refine ⟨⟨by decide, by decide, by decide, by decide, ⟨by decide, by decide, by decide, by decide, rfl⟩⟩, fun s => ?_⟩
  have hcpsr : (resetCore s).cpsr =
      setPsrT false (setPsrF true (setPsrI true (setPsrM Mode.supervisor.bits s.cpsr))) := rfl
  refine ⟨?mode, ?irq, ?fiq, ?thumb, refillsArm_of 0 rfl rfl rfl rfl, (frame_jumpArm _ 0).trace, rfl, rfl⟩
  case mode => rw [hcpsr, psrM_setPsrT, psrM_setPsrF, psrM_setPsrI, psrM_setPsrM, Mode.bits]
  case irq => rw [hcpsr, psrI_setPsrT, psrI_setPsrF, psrI_setPsrI]
  case fiq => rw [hcpsr, psrF_setPsrT, psrF_setPsrF]
  case thumb => rw [hcpsr, psrT_setPsrT]

end Sys2Proof.Machine
end

section
/-! PROOFS. No instruction but SWI reads or writes the mode (60_exceptions.md R312): every operation it is made of
commutes with a change of the mode number, and so does every shape. -/

namespace Sys2Proof.Machine

/-! ## The status register -/

section
variable (m : BitVec 5) (p : Word)

/-- A bit above the mode number can be written before or after it. -/
theorem setBit_setPsrM {i : Nat} (b : Bool) (h5 : 5 ≤ i) (hi : i < 32) :
    setBit (setPsrM m p) i b = setPsrM m (setBit p i b) := by
  apply BitVec.eq_of_getLsbD_eq
  intro j _
  rw [bit_setBit _ _ _ hi, bit_setPsrM, bit_setPsrM, bit_setBit _ _ _ hi]
  by_cases hj : j = i
  · rw [if_pos hj, if_neg (by omega), if_pos hj]
  · rw [if_neg hj, if_neg hj]

@[simp] theorem putNZ_setPsrM (r : Word) : putNZ r (setPsrM m p) = setPsrM m (putNZ r p) := by
  simp only [putNZ, setPsrZ, setPsrN, setBit_setPsrM m _ _ (show 5 ≤ 30 by decide) (show 30 < 32 by decide),
    setBit_setPsrM m _ _ (show 5 ≤ 31 by decide) (show 31 < 32 by decide)]

@[simp] theorem putNZC_setPsrM (r : Word) (c : Bool) : putNZC r c (setPsrM m p) = setPsrM m (putNZC r c p) := by
  rw [putNZC, putNZ_setPsrM, setPsrC, setBit_setPsrM m _ _ (by decide) (by decide)]
  rfl

@[simp] theorem putNZCV_setPsrM (f : Arith) : putNZCV f (setPsrM m p) = setPsrM m (putNZCV f p) := by
  rw [putNZCV, putNZC_setPsrM, setPsrV, setBit_setPsrM m _ _ (by decide) (by decide)]
  rfl

@[simp] theorem setPsrT_setPsrM (b : Bool) : setPsrT b (setPsrM m p) = setPsrM m (setPsrT b p) :=
  setBit_setPsrM m p b (by decide) (by decide)

theorem bit_setPsrM_high {j : Nat} (hj : 5 ≤ j) : (setPsrM m p).getLsbD j = p.getLsbD j := by
  rw [bit_setPsrM, if_neg (by omega)]

@[simp] theorem psrC_setPsrM : psrC (setPsrM m p) = psrC p := bit_setPsrM_high m p (by decide)

@[simp] theorem condPassed_setPsrM (c : Cond) : condPassed (setPsrM m p) c = condPassed p c := by
  have hN : psrN (setPsrM m p) = psrN p := bit_setPsrM_high m p (by decide)
  have hZ : psrZ (setPsrM m p) = psrZ p := bit_setPsrM_high m p (by decide)
  have hV : psrV (setPsrM m p) = psrV p := bit_setPsrM_high m p (by decide)
  cases c <;> simp only [condPassed, hN, hZ, psrC_setPsrM, hV]

end

/-! ## The operations -/

section
variable (m : BitVec 5) (s : State)

@[simp] theorem reg_withMode (r : Reg) : (s.withMode m).reg r = s.reg r := rfl
@[simp] theorem cpsr_withMode : (s.withMode m).cpsr = setPsrM m s.cpsr := rfl
@[simp] theorem prefetch_withMode (f : ThumbFormat) : (s.withMode m).prefetch f = (s.prefetch f).withMode m := rfl
@[simp] theorem advance_withMode : (s.withMode m).advance = s.advance.withMode m := rfl
@[simp] theorem setReg_withMode (r : Reg) (v : Word) : (s.withMode m).setReg r v = (s.setReg r v).withMode m := rfl
@[simp] theorem emit_withMode (e : BusEvent) : (s.withMode m).emit e = (s.emit e).withMode m := rfl
@[simp] theorem store_withMode (a : Word) (w : Width) (v : Word) (tag : SeqTag) :
    (s.withMode m).store a w v tag = (s.store a w v tag).withMode m := rfl
@[simp] theorem loadReg_withMode (r : Reg) (a : Word) (w : Width) (tag : SeqTag) (e : Widen) :
    (s.withMode m).loadReg r a w tag e = (s.loadReg r a w tag e).withMode m := rfl
@[simp] theorem jumpThumb_withMode (t : Word) : (s.withMode m).jumpThumb t = (s.jumpThumb t).withMode m := rfl
@[simp] theorem jumpArm_withMode (t : Word) : (s.withMode m).jumpArm t = (s.jumpArm t).withMode m := rfl
@[simp] theorem setCpsr_withMode (p : Word) : (s.withMode m).setCpsr (setPsrM m p) = (s.setCpsr p).withMode m := rfl

@[simp] theorem load_withMode (a : Word) (w : Width) (e : Widen) : (s.withMode m).load a w e = s.load a w e := rfl
@[simp] theorem mapNext_next (g : State → State) : mapNext g (.next s) = .next (g s) := rfl

@[simp] theorem storeWords_withMode : ∀ (vs : List Word) (a : Word) (tag : SeqTag) (s : State),
    storeWords a tag vs (s.withMode m) = (storeWords a tag vs s).withMode m
  | [], _, _, _ => rfl
  | v :: vs, a, tag, s => by
    rw [storeWords, store_withMode, storeWords_withMode vs, storeWords]

@[simp] theorem loadWords_withMode : ∀ (rs : List LowReg) (a : Word) (tag : SeqTag) (s : State),
    loadWords a tag rs (s.withMode m) = (loadWords a tag rs s).withMode m
  | [], _, _, _ => rfl
  | r :: rs, a, tag, s => by
    rw [loadWords, loadReg_withMode, loadWords_withMode rs, loadWords]

end

/-! ## The shapes, whose operands are the same in any mode -/

section
variable (m : BitVec 5) (s : State) {f : ThumbFormat} {rd : LowReg}

theorem arithOp_withMode {r r' : Arith} (h : r' = r) :
    arithOp f rd r' (s.withMode m) = mapNext (State.withMode m) (arithOp f rd r s) := by
  simp [h, arithOp]

theorem compareOp_withMode {r : Arith} :
    compareOp f r (s.withMode m) = mapNext (State.withMode m) (compareOp f r s) := by
  simp [compareOp]

theorem shiftOp_withMode {r r' : Shifted} (h : r' = r) :
    shiftOp f rd r' (s.withMode m) = mapNext (State.withMode m) (shiftOp f rd r s) := by
  simp [h, shiftOp]

theorem logicOp_withMode {r : Word} :
    logicOp f rd r (s.withMode m) = mapNext (State.withMode m) (logicOp f rd r s) := by
  simp [logicOp]

theorem testOp_withMode {r : Word} :
    testOp f r (s.withMode m) = mapNext (State.withMode m) (testOp f r s) := by
  simp [testOp]

theorem moveOp_withMode {r : Reg} {v : Word} :
    moveOp f r v (s.withMode m) = mapNext (State.withMode m) (moveOp f r v s) := by
  simp [moveOp]

theorem loadOp_withMode {a : Word} {w : Width} {e : Widen} :
    loadOp f rd a w e (s.withMode m) = mapNext (State.withMode m) (loadOp f rd a w e s) := by
  simp [loadOp]

theorem loadInternalOp_withMode {a : Word} {w : Width} {e : Widen} :
    loadInternalOp f rd a w e (s.withMode m) = mapNext (State.withMode m) (loadInternalOp f rd a w e s) := by
  simp [loadInternalOp]

theorem storeOp_withMode {a : Word} {w : Width} {v : Word} :
    storeOp f a w v (s.withMode m) = mapNext (State.withMode m) (storeOp f a w v s) := by
  simp [storeOp]

theorem branchOp_withMode {target : Word} :
    branchOp f target (s.withMode m) = mapNext (State.withMode m) (branchOp f target s) := by
  simp [branchOp]

theorem moveHiOp_withMode {r : Reg} {v : Word} :
    moveHiOp r v (s.withMode m) = mapNext (State.withMode m) (moveHiOp r v s) := by
  unfold moveHiOp
  split
  · simp
  · exact moveOp_withMode m s

theorem condBranchOp_withMode {c : Cond} {imm8 : BitVec 8} :
    condBranchOp c imm8 (s.withMode m) = mapNext (State.withMode m) (condBranchOp c imm8 s) := by
  unfold condBranchOp
  rw [cpsr_withMode, condPassed_setPsrM]
  split
  · exact branchOp_withMode m s
  · simp

/-! ## The instructions of a shape of their own -/

theorem execMulAlu_withMode {rd rs : LowReg} :
    execMulAlu rd rs (s.withMode m) = mapNext (State.withMode m) (execMulAlu rd rs s) := by
  simp [execMulAlu]

theorem hiOperand_withMode (rs : Reg) : hiOperand (s.withMode m) rs = hiOperand s rs := rfl

theorem execBx_withMode {rs : Reg} {h1 : BitVec 1} {d : BitVec 3} :
    execBx rs h1 d (s.withMode m) = mapNext (State.withMode m) (execBx rs h1 d s) := by
  unfold execBx
  rw [hiOperand_withMode]
  dsimp only
  split <;> simp

@[simp] theorem pushValues_withMode (lr : Bool) (rlist : BitVec 8) :
    pushValues (s.withMode m) lr rlist = pushValues s lr rlist := rfl

theorem execPush_withMode {lr : Bool} {rlist : BitVec 8} :
    execPush lr rlist (s.withMode m) = mapNext (State.withMode m) (execPush lr rlist s) := by
  unfold execPush
  split
  · rfl
  · simp

theorem execStrSp_withMode {rd : LowReg} {imm8 : BitVec 8} :
    execStrSp rd imm8 (s.withMode m) = mapNext (State.withMode m) (execStrSp rd imm8 s) := by
  simp [execStrSp, addrSp]

theorem execLdrSp_withMode {rd : LowReg} {imm8 : BitVec 8} :
    execLdrSp rd imm8 (s.withMode m) = mapNext (State.withMode m) (execLdrSp rd imm8 s) := by
  simp [execLdrSp, addrSp]

theorem execBlLo_withMode {imm11 : BitVec 11} :
    execBlLo imm11 (s.withMode m) = mapNext (State.withMode m) (execBlLo imm11 s) := by
  simp [execBlLo, longTarget]

theorem execPop_withMode {pc : Bool} {rlist : BitVec 8} :
    execPop pc rlist (s.withMode m) = mapNext (State.withMode m) (execPop pc rlist s) := by
  unfold execPop
  split
  · rfl
  · simp only [prefetch_withMode, reg_withMode, loadWords_withMode]
    split <;> simp

@[simp] theorem stmiaValues_withMode (rb : LowReg) (new : Word) (regs : List LowReg) :
    stmiaValues (s.withMode m) rb new regs = stmiaValues s rb new regs := by
  cases regs <;> rfl

theorem execStmia_withMode {rb : LowReg} {rlist : BitVec 8} :
    execStmia rb rlist (s.withMode m) = mapNext (State.withMode m) (execStmia rb rlist s) := by
  unfold execStmia
  split
  · rfl
  · simp

theorem execLdmia_withMode {rb : LowReg} {rlist : BitVec 8} :
    execLdmia rb rlist (s.withMode m) = mapNext (State.withMode m) (execLdmia rb rlist s) := by
  unfold execLdmia
  split
  · rfl
  · simp only [prefetch_withMode, reg_withMode, loadWords_withMode]
    split <;> simp

end

/-! ## Every instruction -/

/-- Settles O58: every instruction is a shape, or a sequence of operations, that a change of the mode number passes
through; its operands are read from registers and flags. -/
theorem modeHasNoEffect : Obligations.ModeHasNoEffect := by
  intro i s m hswi
  cases i
  case addReg | subReg | addImm3 | subImm3 | addImm8 | subImm8 | negAlu => exact arithOp_withMode m s rfl
  case adcAlu | sbcAlu => exact arithOp_withMode m s (by rw [cpsr_withMode, psrC_setPsrM]; rfl)
  case cmpImm8 | cmpAlu | cmnAlu | cmpHi => exact compareOp_withMode m s
  case lslImm | lsrImm | asrImm | lslAlu | lsrAlu | asrAlu | rorAlu =>
    exact shiftOp_withMode m s (by rw [cpsr_withMode, psrC_setPsrM]; rfl)
  case movImm8 | andAlu | eorAlu | orrAlu | bicAlu | mvnAlu => exact logicOp_withMode m s
  case tstAlu => exact testOp_withMode m s
  case mulAlu => exact execMulAlu_withMode m s
  case addHi | movHi => exact moveHiOp_withMode m s
  case bx rs h1 d => exact execBx_withMode m s (h1 := h1) (d := d)
  case push => exact execPush_withMode m s
  case pop => exact execPop_withMode m s
  case stmia => exact execStmia_withMode m s
  case ldmia => exact execLdmia_withMode m s
  case beq | bne | bcs | bcc | bmi | bpl | bvs | bvc | bhi | bls | bge | blt | bgt | ble =>
    exact condBranchOp_withMode m s
  case bal imm8 => exact condBranchOp_withMode m s (c := .al) (imm8 := imm8)
  case swi c => exact absurd rfl (hswi c)
  case ldrPc | ldrRo | ldrbRo | ldsbRo | ldrhRo | ldshRo => exact loadInternalOp_withMode m s
  case ldrImm | ldrbImm | ldrhImm => exact loadOp_withMode m s
  case strRo | strbRo | strhRo | strImm | strbImm | strhImm => exact storeOp_withMode m s
  case strSp => exact execStrSp_withMode m s
  case ldrSp => exact execLdrSp_withMode m s
  case addPc | addSp | incSp | decSp | blHi => exact moveOp_withMode m s
  case b => exact branchOp_withMode m s
  case blLo => exact execBlLo_withMode m s
  case reserved => rfl

end Sys2Proof.Machine
end

section
/-! PROOFS. The PPU register block (60_exceptions.md R330 to R338): what each kind of register reads back, and the block
made of them. -/

namespace Sys2Proof.Machine

/-- The two bytes of most registers. -/
theorem byteIndex_of_lt {i : Nat} (h : i < 2) : i = 0 ∨ i = 1 := by omega

/-! ## Registers of plain bytes (R332, R334, R337, R338) -/

theorem ByteReg.readByte_writeByte (r : ByteReg) (mask v : Byte) {i : Nat} (h : i < 2) :
    (r.writeByte ⟨mask, mask⟩ i v).readByte i = v &&& mask := by
  obtain rfl | rfl := byteIndex_of_lt h <;> rfl

theorem ByteReg.writeByte_beyond (m : ByteMasks) (r : ByteReg) (v : Byte) {i : Nat} (h : 2 ≤ i) :
    r.writeByte m i v = r := by
  obtain ⟨k, rfl⟩ := Nat.exists_eq_add_of_le' h
  rfl

theorem ByteReg.readByte_beyond (r : ByteReg) {i : Nat} (h : 2 ≤ i) : r.readByte i = 0 := by
  obtain ⟨k, rfl⟩ := Nat.exists_eq_add_of_le' h
  rfl

theorem ByteReg.readByte_reset (i : Nat) : ByteReg.reset.readByte i = 0 := by
  obtain h | h := Nat.lt_or_ge i 2
  · obtain rfl | rfl := byteIndex_of_lt h <;> rfl
  · exact ByteReg.readByte_beyond _ h

/-! ## DISPSTAT (R333) -/

theorem enables_and_flags (enables flags : BitVec 3) :
    0#2 ++ enables ++ flags = (0#2 ++ enables ++ 0#3) ||| flags.setWidth 8 := by
  revert enables flags; decide

theorem and_enablesMask (v : Byte) : v &&& 0x38 = 0#2 ++ v.extractLsb' 3 3 ++ 0#3 := by
  revert v; decide

theorem Dispstat.readByte_writeByte_zero (r : Dispstat) (v : Byte) :
    (r.writeByte 0 v).readByte 0 = (v &&& 0x38) ||| r.flags.setWidth 8 := by
  rw [and_enablesMask, ← enables_and_flags]
  rfl

theorem Dispstat.writeByte_beyond (r : Dispstat) (v : Byte) {i : Nat} (h : 2 ≤ i) : r.writeByte i v = r := by
  obtain ⟨k, rfl⟩ := Nat.exists_eq_add_of_le' h
  rfl

theorem Dispstat.readByte_beyond (r : Dispstat) {i : Nat} (h : 2 ≤ i) : r.readByte i = 0 := by
  obtain ⟨k, rfl⟩ := Nat.exists_eq_add_of_le' h
  rfl

theorem Dispstat.readByte_reset (i : Nat) : Dispstat.reset.readByte i = 0 := by
  obtain h | h := Nat.lt_or_ge i 2
  · obtain rfl | rfl := byteIndex_of_lt h <;> rfl
  · exact Dispstat.readByte_beyond _ h

/-! ## Reference points (R335) -/

theorem bit_putByte (w : Word) (i : Fin 4) (v : Byte) {j : Nat} (hj : j < 8) :
    (putByte w i v).getLsbD (8 * i.val + j) = v.getLsbD j := by
  have hlt : 8 * i.val + j < 32 := by omega
  have hones : ∀ j, j < 8 → (0xFF#32).getLsbD j = true := by decide
  have hcleared : (~~~(0xFF#32 <<< (8 * i.val))).getLsbD (8 * i.val + j) = false := by
    rw [BitVec.getLsbD_not, BitVec.getLsbD_shiftLeft, Nat.add_sub_cancel_left, hones j hj]
    simp [hlt]
  rw [putByte, BitVec.getLsbD_or, BitVec.getLsbD_and, hcleared, Bool.and_false, Bool.false_or,
    BitVec.getLsbD_shiftLeft, Nat.add_sub_cancel_left, BitVec.getLsbD_setWidth]
  simp [hlt, show j < 32 by omega]

theorem extractByte_putByte (w : Word) (i : Fin 4) (v : Byte) : (putByte w i v).extractLsb' (8 * i.val) 8 = v := by
  apply BitVec.eq_of_getLsbD_eq
  intro j hj
  rw [BitVec.getLsbD_extractLsb', bit_putByte w i v hj, decide_eq_true hj, Bool.true_and]

section
variable (r : RefPoint) (v : Byte) {i : Nat}

theorem RefPoint.writeByte_of_lt (h : i < 4) :
    r.writeByte i v = ⟨putByte r.initial ⟨i, h⟩ v, sext28 (putByte r.initial ⟨i, h⟩ v)⟩ := dif_pos h

theorem RefPoint.readByte_writeByte (h : i < 4) : (r.writeByte i v).readByte i = v := by
  rw [RefPoint.writeByte_of_lt r v h, RefPoint.readByte, if_pos h]
  exact extractByte_putByte r.initial ⟨i, h⟩ v

/-- Every write latches the shadow from the bytes written so far (90_conflicts.md C5). -/
theorem RefPoint.current_writeByte (h : i < 4) : (r.writeByte i v).current = sext28 (r.writeByte i v).initial := by
  rw [RefPoint.writeByte_of_lt r v h]

theorem RefPoint.writeByte_beyond (h : 4 ≤ i) : r.writeByte i v = r := dif_neg (Nat.not_lt.mpr h)

theorem RefPoint.readByte_beyond (h : 4 ≤ i) : r.readByte i = 0 := if_neg (Nat.not_lt.mpr h)

end

theorem RefPoint.readByte_reset (i : Nat) : RefPoint.reset.readByte i = 0 := by
  simp [RefPoint.readByte, RefPoint.reset]

/-! ## Window ranges (R336) -/

section
variable (r : WinRange) (v : Byte) {i : Nat}

theorem WinRange.readByte_writeByte (h : i < 2) : (r.writeByte i v).readByte i = v := by
  obtain rfl | rfl := byteIndex_of_lt h <;> rfl

theorem WinRange.changed_writeByte (h : i < 2) : (r.writeByte i v).changed = (r.changed || v != r.readByte i) := by
  obtain rfl | rfl := byteIndex_of_lt h <;> rfl

theorem WinRange.writeByte_beyond (h : 2 ≤ i) : r.writeByte i v = r := by
  obtain ⟨k, rfl⟩ := Nat.exists_eq_add_of_le' h
  rfl

theorem WinRange.readByte_beyond (h : 2 ≤ i) : r.readByte i = 0 := by
  obtain ⟨k, rfl⟩ := Nat.exists_eq_add_of_le' h
  rfl

end

theorem WinRange.readByte_reset (i : Nat) : WinRange.reset.readByte i = 0 := by
  obtain h | h := Nat.lt_or_ge i 2
  · obtain rfl | rfl := byteIndex_of_lt h <;> rfl
  · exact WinRange.readByte_beyond _ h

/-! ## The block -/

section
variable (p : Ppu) (i : Nat) (v : Byte)

/-- What is written to one of several like registers is what that one holds next. -/
theorem bgcnt_writeByte (n : Fin 4) :
    (p.writeByte i v (.bgcnt n)).bgcnt.get n = (p.bgcnt.get n).writeByte masksBgcnt i v := Vector.getElem_set_self _

theorem refPoint_writeByte (n : Fin 4) :
    (p.writeByte i v (.refPoint n)).refPoint.get n = (p.refPoint.get n).writeByte i v := Vector.getElem_set_self _

theorem winH_writeByte (n : Fin 2) :
    (p.writeByte i v (.winH n)).winH.get n = (p.winH.get n).writeByte i v := Vector.getElem_set_self _

theorem winV_writeByte (n : Fin 2) :
    (p.writeByte i v (.winV n)).winV.get n = (p.winV.get n).writeByte i v := Vector.getElem_set_self _

end

/-- An index beyond a register's size writes nothing. -/
theorem Ppu.writeByte_beyond (p : Ppu) (v : Byte) {r : PpuReg} {i : Nat} (h : r.size ≤ i) : p.writeByte i v r = p := by
  cases r <;> simp only [Ppu.writeByte]
  case dispcnt | winin | winout | bldcnt => rw [ByteReg.writeByte_beyond _ _ v h]
  case dispstat => rw [Dispstat.writeByte_beyond _ v h]
  case bgcnt n => rw [ByteReg.writeByte_beyond _ _ v h, Vector.get_eq_getElem, Vector.set_getElem_self]
  case refPoint n => rw [RefPoint.writeByte_beyond _ v h, Vector.get_eq_getElem, Vector.set_getElem_self]
  case winH n | winV n => rw [WinRange.writeByte_beyond _ v h, Vector.get_eq_getElem, Vector.set_getElem_self]

theorem Ppu.readByte_beyond (p : Ppu) {r : PpuReg} {i : Nat} (h : r.size ≤ i) : p.readByte i r = 0 := by
  cases r
  case dispcnt | bgcnt | winin | winout | bldcnt => exact ByteReg.readByte_beyond _ h
  case dispstat => exact Dispstat.readByte_beyond _ h
  case refPoint => exact RefPoint.readByte_beyond _ h
  case winH | winV => exact WinRange.readByte_beyond _ h

theorem Ppu.readByte_reset (r : PpuReg) (i : Nat) : Ppu.reset.readByte i r = 0 := by
  cases r <;> simp only [Ppu.readByte, Ppu.reset, Vector.get_replicate]
  case dispcnt | bgcnt | winin | winout | bldcnt => exact ByteReg.readByte_reset i
  case dispstat => exact Dispstat.readByte_reset i
  case refPoint => exact RefPoint.readByte_reset i
  case winH | winV => exact WinRange.readByte_reset i

/-- Settles O60, register by register; a mask of eight ones drops nothing. -/
theorem ppuRoundTrip : Obligations.PpuRoundTrip := by
  intro p v
  have hall : v &&& 0xFF = v := BitVec.and_allOnes
  refine ⟨fun i hi => ?dispcnt, Dispstat.readByte_writeByte_zero _ v, rfl, fun n => ?bgcnt, fun n i hi => ?refPoint,
    fun n i hi => ?window, fun i hi => ?windowControl, hall, rfl,
    fun r i hi => ⟨p.writeByte_beyond v hi, p.readByte_beyond hi⟩, Ppu.readByte_reset⟩
  case dispcnt => exact (ByteReg.readByte_writeByte _ 0xFF v hi).trans hall
  case bgcnt =>
    simp only [Ppu.readByte, bgcnt_writeByte]
    exact ⟨rfl, hall⟩
  case refPoint =>
    simp only [Ppu.readByte, refPoint_writeByte]
    exact ⟨RefPoint.readByte_writeByte _ v hi, RefPoint.current_writeByte _ v hi⟩
  case window =>
    simp only [Ppu.readByte, winH_writeByte, winV_writeByte]
    exact ⟨WinRange.readByte_writeByte _ v hi, WinRange.readByte_writeByte _ v hi, WinRange.changed_writeByte _ v hi,
      WinRange.changed_writeByte _ v hi⟩
  case windowControl => exact ⟨ByteReg.readByte_writeByte _ 0x3F v hi, ByteReg.readByte_writeByte _ 0x3F v hi⟩

end Sys2Proof.Machine
end
